-- ==== Sys2Proof/Config.lean ====
section
/-! DEFINITION. The configuration of a model instance: the parameters of spec rule R7 that switch behaviour. They are
fixed for the life of a state and no instruction changes them (R470). Their defaults, and the parameters that are
numbers or functions, stand in Machine/Params.lean, Machine/Real64.lean and Machine/Oscillators.lean. -/

namespace Sys2Proof

/-- `LFO_INVARIANT_POLICY` (R7, R211): what a computed LFO value outside [-1, 1] leads to. -/
inductive LfoInvariantPolicy where
  /-- The instruction raises `LfoInvariantViolation`. -/
  | fault
  /-- The value is clamped into [-1, 1] and counted. -/
  | clamp
  deriving DecidableEq, Repr

/-- `CHO_COEF_MODE` (R7, R404): what the CHO scale factor is. -/
inductive ChoCoefMode where
  /-- The LFO value itself. -/
  | lfoValue
  /-- The fractional part of the scaled address. -/
  | fraction
  deriving DecidableEq, Repr

/-- The behaviour-switching parameters of R7, as plain data. -/
structure Config where
  /-- `CLAMP_ENABLED`: results saturate to 24 bits; when off they wrap modulo 2^32 (R162). -/
  clampEnabled : Bool
  /-- `SKP_TARGET_BIAS`: added to IP + N on a taken SKP (R380). -/
  skpTargetBias : Nat
  /-- `LFO_INVARIANT_POLICY` (R404). -/
  lfoPolicy : LfoInvariantPolicy
  /-- `CHO_COEF_MODE` (R404). -/
  choCoefMode : ChoCoefMode
  deriving DecidableEq, Repr

end Sys2Proof
end

