-- ==== Sys2Proof/Machine/Params.lean ====
section
/-! DEFINITION. The numeric parameters of spec rule R7 and the default configuration. -/

namespace Sys2Proof.Machine

/-- `DELAY_SIZE`: the words of the delay memory (R70, decision D2). -/
def delaySize : Nat := 32768

/-- `MAX_PROGRAM_LEN`: the decoder's bound on the instruction count (R131, decision D3). -/
def maxProgramLen : Nat := 128

/-- `MAX_STEPS_PER_SAMPLE`: the per-sample instruction ceiling (R255, decision D4). -/
def maxStepsPerSample : Nat := maxProgramLen

/-- `RAMP_MAX`: the wrap value of a ramp counter (R205, decision D32). -/
def rampMax : Nat := 2147483647

/-- The largest sine rate (R203, decision D31). -/
def sineRateMax : Nat := 511

/-- The largest sine amplitude (R204, decision D31). -/
def sineRangeMax : Nat := 32767

/-- The smallest ramp rate (R208, decision D31). -/
def rampRateMin : Int := -16384

/-- The largest ramp rate (R208, decision D31). -/
def rampRateMax : Int := 32767

/-- DESIGN CHOICE (assumption 1). The default parameters of R7: clamping on, SKP bias 0, policy `fault`, coefficient mode `lfoValue`. -/
def defaultConfig : Config :=
  { clampEnabled := true, skpTargetBias := 0, lfoPolicy := .fault, choCoefMode := .lfoValue }

end Sys2Proof.Machine
end

