-- ==== Sys2Proof/Word.lean ====
section
/-! DEFINITION. The word types of the FV-1 core: the program word and register slot, the image byte, the delay-memory
word, and the two address widths. -/

namespace Sys2Proof

/-- A 32-bit program word (R100) or the raw pattern of a register slot or fixed-point value (R35, R160). -/
abbrev Word := BitVec 32

/-- One byte of the program image (R73). -/
abbrev Byte := BitVec 8

/-- One 24-bit word of the delay memory (R70, R72). -/
abbrev DelayWord := BitVec 24

/-- A register address, one of 64 slots (R35). -/
abbrev RegAddr := BitVec 6

/-- The 16-bit unsigned delay base address of an instruction (R76, R105). -/
abbrev DelayAddr := BitVec 16

end Sys2Proof
end

