-- ==== Sys2Proof/Syntax.lean ====
section
/-! DEFINITION. The decoded instructions of the FV-1 core (R102, R243): a closed variant with one constructor for each
mnemonic of the opcode table, aliases included. Ignored and constant fields are no operands (R117). -/

namespace Sys2Proof

/-- A sine oscillator (R200). -/
inductive SineSel where
  | sin0
  | sin1
  deriving DecidableEq, Repr

/-- A ramp oscillator (R205). -/
inductive RampSel where
  | rmp0
  | rmp1
  deriving DecidableEq, Repr

/-- The LFO selector N of a CHO instruction (R114, R400): 0 = SIN0, 1 = SIN1, 2 = RMP0, 3 = RMP1. -/
inductive LfoSel where
  | sine (k : SineSel)
  | ramp (k : RampSel)
  deriving DecidableEq, Repr

/-- A ramp amplitude: one of the four fixed steps (R209). -/
inductive RampRange where
  | r4096
  | r2048
  | r1024
  | r512
  deriving DecidableEq, Repr

/-- The amplitude in samples. -/
def RampRange.toNat : RampRange → Nat
  | .r4096 => 4096
  | .r2048 => 2048
  | .r1024 => 1024
  | .r512 => 512

/-- The condition mask F of SKP (R110): bit 4 RUN, bit 3 ZRC, bit 2 ZRO, bit 1 GEZ, bit 0 NEG. -/
structure SkpFlags where
  run : Bool
  zrc : Bool
  zro : Bool
  gez : Bool
  neg : Bool
  deriving DecidableEq, Repr

/-- No condition bit set. -/
def SkpFlags.none : SkpFlags := ⟨false, false, false, false, false⟩

/-- The flags F of a CHO instruction (R114): bit 0 COS, bit 1 REG, bit 2 COMPC, bit 3 COMPA, bit 4 RPTR2, bit 5 NA. -/
structure ChoFlags where
  cos : Bool
  reg : Bool
  compc : Bool
  compa : Bool
  rptr2 : Bool
  na : Bool
  deriving DecidableEq, Repr

/-- No CHO flag set. -/
def ChoFlags.none : ChoFlags := ⟨false, false, false, false, false, false⟩

/-- A decoded instruction. Coefficients, offsets and masks are the raw field patterns; Machine/Operands.lean reads them
in their Q-formats (R115). -/
inductive Instr where
  /-- Read delay memory and accumulate (R310). -/
  | rda (a : DelayAddr) (c : BitVec 11)
  /-- Read delay memory through ADDR_PTR and accumulate (R311). -/
  | rmpa (c : BitVec 11)
  /-- Write delay memory and scale (R312). -/
  | wra (a : DelayAddr) (c : BitVec 11)
  /-- Write delay memory, scale and add LR (R313). -/
  | wrap (a : DelayAddr) (c : BitVec 11)
  /-- Read register, scale and accumulate (R330). -/
  | rdax (a : RegAddr) (c : BitVec 16)
  /-- Read register, filter (R331). -/
  | rdfx (a : RegAddr) (c : BitVec 16)
  /-- RDFX with both arguments zero (R332). -/
  | ldax
  /-- Write register and scale (R334). -/
  | wrax (a : RegAddr) (c : BitVec 16)
  /-- Write register, high-pass shelf (R335). -/
  | wrhx (a : RegAddr) (c : BitVec 16)
  /-- Write register, low-pass shelf (R336). -/
  | wrlx (a : RegAddr) (c : BitVec 16)
  /-- Maximum of absolute values (R337). -/
  | maxx (a : RegAddr) (c : BitVec 16)
  /-- MAXX with both arguments zero (R338). -/
  | absa
  /-- Multiply by register (R339). -/
  | mulx (a : RegAddr)
  /-- Logarithm (R274). -/
  | log (c : BitVec 16) (d : BitVec 11)
  /-- Exponential (R276). -/
  | exp (c : BitVec 16) (d : BitVec 11)
  /-- Scale and offset (R272). -/
  | sof (c : BitVec 16) (d : BitVec 11)
  /-- Bitwise AND with a mask (R290). -/
  | and (m : BitVec 24)
  /-- AND with a zero mask (R291). -/
  | clr
  /-- Bitwise OR with a mask (R292). -/
  | or (m : BitVec 24)
  /-- Bitwise XOR with a mask (R293). -/
  | xor (m : BitVec 24)
  /-- XOR with the all-ones mask (R294). -/
  | not
  /-- Conditional skip (R380). -/
  | skp (f : SkpFlags) (n : BitVec 6)
  /-- SKP with no flag and no offset (R382). -/
  | nop
  /-- Load a sine oscillator (R360). -/
  | wlds (k : SineSel) (f : BitVec 9) (a : BitVec 15)
  /-- Load a ramp oscillator (R361). -/
  | wldr (k : RampSel) (f : BitVec 16) (a : RampRange)
  /-- Reset a ramp oscillator (R362). -/
  | jam (k : RampSel)
  /-- Read delay memory at a modulated address (R410). -/
  | choRda (n : LfoSel) (f : ChoFlags) (a : DelayAddr)
  /-- Scale by the LFO and add an offset (R411). -/
  | choSof (n : LfoSel) (f : ChoFlags) (d : BitVec 16)
  /-- Load the LFO value into ACC (R412). -/
  | choRdal (n : LfoSel) (f : ChoFlags)
  /-- The reserved CHO sub-command, with the `rawValue` its error records (R413, R441). -/
  | choUnknown (word : Word)
  deriving DecidableEq, Repr

end Sys2Proof
end

