-- ==== Sys2Proof/WellFormed.lean ====
section
/-! DEFINITION. Which decoded instructions the decoder can produce: an instruction is not well formed when the
aliasing of R119 gives its word another name, or when a CHO_UNKNOWN carries a word that is not one (R120). -/

namespace Sys2Proof

/-- The check of one instruction (R119, R120). -/
def Instr.wellFormed : Instr → Bool
  | .rda _ _ => true
  | .rmpa _ => true
  | .wra _ _ => true
  | .wrap _ _ => true
  | .rdax _ _ => true
  | .rdfx a c => !(a == 0 && c == 0)
  | .ldax => true
  | .wrax _ _ => true
  | .wrhx _ _ => true
  | .wrlx _ _ => true
  | .maxx a c => !(a == 0 && c == 0)
  | .absa => true
  | .mulx _ => true
  | .log _ _ => true
  | .exp _ _ => true
  | .sof _ _ => true
  | .and m => m != 0
  | .clr => true
  | .or _ => true
  | .xor m => m != BitVec.allOnes 24
  | .not => true
  | .skp f n => !(f == SkpFlags.none && n == 0)
  | .nop => true
  | .wlds _ _ _ => true
  | .wldr _ _ _ => true
  | .jam _ => true
  | .choRda _ _ _ => true
  | .choSof _ _ _ => true
  | .choRdal _ _ => true
  | .choUnknown w => w.extractLsb' 0 5 == 0x14#5 && w.extractLsb' 30 2 == 1#2

end Sys2Proof
end

