-- ==== Sys2Proof/Decode.lean ====
section
/-! DEFINITION. Decoding (R100 to R123), program decoding (R130 to R132, R445) and the encoder written from the same
format tables (R105 to R114). -/

namespace Sys2Proof

/-- Why a word or a byte stream is no instruction. -/
inductive DecodeError where
  /-- The opcode has no template (R121): 0x15 to 0x1F. -/
  | unknownOpcode (word : Word)
  /-- Fewer than four bytes are left (the loader's error of R132). -/
  | truncated
  deriving DecidableEq, Repr

/-- Why a program image is refused (R132, R444). -/
inductive LoadError where
  /-- A word with no template stands at this index before the first terminator. -/
  | unknownOpcode (index : Nat) (word : Word)
  /-- More than this many words stand before the first terminator. -/
  | programTooLong (limit : Nat)
  /-- The image's byte length is not a multiple of four (DEDUCED, assumption 10). -/
  | malformedStream (bytes : Nat)
  deriving DecidableEq, Repr

/-- The opcode, `w[4:0]` (R100). -/
def opcodeOf (w : Word) : BitVec 5 := w.extractLsb' 0 5

/-- Bits [20:5]: A of format M, X of format C (R105, R114). -/
def fieldA16 (w : Word) : BitVec 16 := w.extractLsb' 5 16

/-- Bits [31:21]: C of format M (R105). -/
def fieldC11 (w : Word) : BitVec 11 := w.extractLsb' 21 11

/-- Bits [10:5]: A of formats R and X (R106, R107). -/
def fieldA6 (w : Word) : BitVec 6 := w.extractLsb' 5 6

/-- Bits [31:16]: C of formats R and CD (R106, R108). -/
def fieldC16 (w : Word) : BitVec 16 := w.extractLsb' 16 16

/-- Bits [15:5]: D of format CD (R108). -/
def fieldD11 (w : Word) : BitVec 11 := w.extractLsb' 5 11

/-- Bits [31:8]: M of format B (R109). -/
def fieldM24 (w : Word) : BitVec 24 := w.extractLsb' 8 24

/-- Bits [26:21]: N of format S (R110). -/
def fieldN6 (w : Word) : BitVec 6 := w.extractLsb' 21 6

/-- Bits [31:27]: F of format S, RUN in bit 31 down to NEG in bit 27 (R110). -/
def fieldSkpFlags (w : Word) : SkpFlags :=
  { run := w.getLsbD 31, zrc := w.getLsbD 30, zro := w.getLsbD 29, gez := w.getLsbD 28, neg := w.getLsbD 27 }

/-- Bits [29:24]: F of format C, COS in bit 24 up to NA in bit 29 (R114). -/
def fieldChoFlags (w : Word) : ChoFlags :=
  { cos := w.getLsbD 24, reg := w.getLsbD 25, compc := w.getLsbD 26, compa := w.getLsbD 27, rptr2 := w.getLsbD 28,
    na := w.getLsbD 29 }

/-- A one-bit selector of a sine oscillator: 0 = SIN0, 1 = SIN1 (R111). -/
def sineOfBit (b : Bool) : SineSel := if b then .sin1 else .sin0

/-- A one-bit selector of a ramp oscillator: 0 = RMP0, 1 = RMP1 (R112, R113). -/
def rampOfBit (b : Bool) : RampSel := if b then .rmp1 else .rmp0

/-- Bits [22:21]: N of format C (R114). -/
def fieldLfo (w : Word) : LfoSel :=
  if w.getLsbD 22 then .ramp (rampOfBit (w.getLsbD 21)) else .sine (sineOfBit (w.getLsbD 21))

/-- Bits [6:5]: A of format WR, 0 = 4096, 1 = 2048, 2 = 1024, 3 = 512 (R112). -/
def fieldRampRange (w : Word) : RampRange :=
  if w.getLsbD 6 then (if w.getLsbD 5 then .r512 else .r1024) else (if w.getLsbD 5 then .r2048 else .r4096)

/-- The sub-command or selector in bits [31:30] (R118, R120). -/
def fieldTop (w : Word) : BitVec 2 := w.extractLsb' 30 2

/-- RDFX, named LDAX when A and C are zero (R119). -/
def aliasRdfx (a : RegAddr) (c : BitVec 16) : Instr := if a == 0 && c == 0 then .ldax else .rdfx a c

/-- MAXX, named ABSA when A and C are zero (R119). -/
def aliasMaxx (a : RegAddr) (c : BitVec 16) : Instr := if a == 0 && c == 0 then .absa else .maxx a c

/-- AND, named CLR when M is zero (R119). -/
def aliasAnd (m : BitVec 24) : Instr := if m == 0 then .clr else .and m

/-- XOR, named NOT when M is all ones (R119). -/
def aliasXor (m : BitVec 24) : Instr := if m == BitVec.allOnes 24 then .not else .xor m

/-- SKP, named NOP when F and N are zero (R119). -/
def aliasSkp (f : SkpFlags) (n : BitVec 6) : Instr := if f == SkpFlags.none && n == 0 then .nop else .skp f n

/-- Opcode 0x12: WLDS when the two highest bits are zero, WLDR otherwise (R118). -/
def decodeLfoLoad (w : Word) : Instr :=
  if fieldTop w == 0 then .wlds (sineOfBit (w.getLsbD 29)) (w.extractLsb' 20 9) (w.extractLsb' 5 15)
  else .wldr (rampOfBit (w.getLsbD 29)) (w.extractLsb' 13 16) (fieldRampRange w)

/-- Opcode 0x14: the CHO sub-command T (R120). -/
def decodeCho (w : Word) : Instr :=
  if fieldTop w == 0 then .choRda (fieldLfo w) (fieldChoFlags w) (fieldA16 w)
  else if fieldTop w == 2 then .choSof (fieldLfo w) (fieldChoFlags w) (fieldA16 w)
  else if fieldTop w == 3 then .choRdal (fieldLfo w) (fieldChoFlags w)
  else .choUnknown w

/-- One word as an instruction (R101, R103, R119): total and pure; an opcode without a template is rejected by name
(R121, R123). -/
def decodeWord (w : Word) : Except DecodeError Instr :=
  match (opcodeOf w).toNat with
  | 0x00 => .ok (.rda (fieldA16 w) (fieldC11 w))
  | 0x01 => .ok (.rmpa (fieldC11 w))
  | 0x02 => .ok (.wra (fieldA16 w) (fieldC11 w))
  | 0x03 => .ok (.wrap (fieldA16 w) (fieldC11 w))
  | 0x04 => .ok (.rdax (fieldA6 w) (fieldC16 w))
  | 0x05 => .ok (aliasRdfx (fieldA6 w) (fieldC16 w))
  | 0x06 => .ok (.wrax (fieldA6 w) (fieldC16 w))
  | 0x07 => .ok (.wrhx (fieldA6 w) (fieldC16 w))
  | 0x08 => .ok (.wrlx (fieldA6 w) (fieldC16 w))
  | 0x09 => .ok (aliasMaxx (fieldA6 w) (fieldC16 w))
  | 0x0A => .ok (.mulx (fieldA6 w))
  | 0x0B => .ok (.log (fieldC16 w) (fieldD11 w))
  | 0x0C => .ok (.exp (fieldC16 w) (fieldD11 w))
  | 0x0D => .ok (.sof (fieldC16 w) (fieldD11 w))
  | 0x0E => .ok (aliasAnd (fieldM24 w))
  | 0x0F => .ok (.or (fieldM24 w))
  | 0x10 => .ok (aliasXor (fieldM24 w))
  | 0x11 => .ok (aliasSkp (fieldSkpFlags w) (fieldN6 w))
  | 0x12 => .ok (decodeLfoLoad w)
  | 0x13 => .ok (.jam (rampOfBit (w.getLsbD 6)))
  | 0x14 => .ok (decodeCho w)
  | _ => .error (.unknownOpcode w)

/-- A word from its four bytes, the first holding bits [31:24] (R73). -/
def wordOfBytes (b0 b1 b2 b3 : Byte) : Word := b0 ++ b1 ++ b2 ++ b3

/-- The four bytes of a word as the image holds them, the most significant first (R73). -/
def bytesOfWord (w : Word) : List Byte :=
  [w.extractLsb' 24 8, w.extractLsb' 16 8, w.extractLsb' 8 8, w.extractLsb' 0 8]

/-- The first instruction of a byte stream and the bytes after it. -/
def decodeBytes : List Byte → Except DecodeError (Instr × List Byte)
  | b0 :: b1 :: b2 :: b3 :: rest => (decodeWord (wordOfBytes b0 b1 b2 b3)).map fun i => (i, rest)
  | _ => .error .truncated

/-- The words of an image; `none` when its length is not a multiple of four bytes (R73, R132). -/
def wordsOfImage : List Byte → Option (List Word)
  | [] => some []
  | b0 :: b1 :: b2 :: b3 :: rest => (wordsOfImage rest).map (wordOfBytes b0 b1 b2 b3 :: ·)
  | _ => none

/-- The program terminator: opcode 0x11 with N = 0, whatever its flags (R130). -/
def isTerminator (w : Word) : Bool := opcodeOf w == 0x11#5 && fieldN6 w == 0

/-- The scan of R445 from index `k`: first the terminator, then the length bound, then the opcode. -/
def decodeProgramFrom : Nat → List Word → Except LoadError (List Word)
  | _, [] => .ok []
  | k, w :: ws =>
    if isTerminator w then .ok []
    else if k = Machine.maxProgramLen then .error (.programTooLong Machine.maxProgramLen)
    else match decodeWord w with
      | .error _ => .error (.unknownOpcode k w)
      | .ok _ => (decodeProgramFrom (k + 1) ws).map (w :: ·)

/-- `decodeProgram` (R130, R131): the words of the program, each of which decodes, without the terminator and what
follows it. Each word stands for its Operation: `decodeWord` gives the name and arguments, the word is the `rawValue`. -/
def decodeProgram (words : List Word) : Except LoadError (List Word) := decodeProgramFrom 0 words

/-- `decodeProgram` of a byte image (R73, R470). -/
def decodeImage (image : List Byte) : Except LoadError (List Word) :=
  match wordsOfImage image with
  | none => .error (.malformedStream image.length)
  | some words => decodeProgram words

/-- The code of a decode error (R444); a malformed stream is the loader's and has none. -/
def LoadError.code : LoadError → Option Nat
  | .unknownOpcode _ _ => some 1
  | .programTooLong _ => some 2
  | .malformedStream _ => none

/-- Format M: C, A, opcode (R105). -/
def encodeM (c : BitVec 11) (a : BitVec 16) (op : BitVec 5) : Word := c ++ a ++ op

/-- Format R: C, five ignored bits, A, opcode (R106). -/
def encodeR (c : BitVec 16) (a : RegAddr) (op : BitVec 5) : Word := c ++ 0#5 ++ a ++ op

/-- Format X: 21 ignored bits, A, opcode (R107). -/
def encodeX (a : RegAddr) (op : BitVec 5) : Word := 0#21 ++ a ++ op

/-- Format CD: C, D, opcode (R108). -/
def encodeCD (c : BitVec 16) (d : BitVec 11) (op : BitVec 5) : Word := c ++ d ++ op

/-- Format B: M, three ignored bits, opcode (R109). -/
def encodeB (m : BitVec 24) (op : BitVec 5) : Word := m ++ 0#3 ++ op

/-- The five condition bits, RUN first (R110). -/
def SkpFlags.bits (f : SkpFlags) : BitVec 5 :=
  BitVec.ofBool f.run ++ BitVec.ofBool f.zrc ++ BitVec.ofBool f.zro ++ BitVec.ofBool f.gez ++ BitVec.ofBool f.neg

/-- Format S: F, N, 16 ignored bits, opcode (R110). -/
def encodeS (f : SkpFlags) (n : BitVec 6) : Word := f.bits ++ n ++ 0#16 ++ 0x11#5

/-- The selector bit of a sine oscillator. -/
def SineSel.bit : SineSel → BitVec 1
  | .sin0 => 0
  | .sin1 => 1

/-- The selector bit of a ramp oscillator. -/
def RampSel.bit : RampSel → BitVec 1
  | .rmp0 => 0
  | .rmp1 => 1

/-- The amplitude index of a ramp (R112). -/
def RampRange.index : RampRange → BitVec 2
  | .r4096 => 0
  | .r2048 => 1
  | .r1024 => 2
  | .r512 => 3

/-- The two selector bits of an LFO (R114). -/
def LfoSel.bits : LfoSel → BitVec 2
  | .sine k => 0#1 ++ k.bit
  | .ramp k => 1#1 ++ k.bit

/-- The six flag bits, NA first (R114). -/
def ChoFlags.bits (f : ChoFlags) : BitVec 6 :=
  BitVec.ofBool f.na ++ BitVec.ofBool f.rptr2 ++ BitVec.ofBool f.compa ++ BitVec.ofBool f.compc ++
    BitVec.ofBool f.reg ++ BitVec.ofBool f.cos

/-- Format C: T, F, an ignored bit, N, X, opcode (R114). -/
def encodeC (t : BitVec 2) (f : ChoFlags) (n : LfoSel) (x : BitVec 16) : Word :=
  t ++ f.bits ++ 0#1 ++ n.bits ++ x ++ 0x14#5

/-- The canonical word of an instruction: ignored bits zero, constant fields at their canonical values (R105 to R114).
DEDUCED (assumption 16). -/
def encode : Instr → Word
  | .rda a c => encodeM c a 0x00
  | .rmpa c => encodeM c 0 0x01
  | .wra a c => encodeM c a 0x02
  | .wrap a c => encodeM c a 0x03
  | .rdax a c => encodeR c a 0x04
  | .rdfx a c => encodeR c a 0x05
  | .ldax => encodeR 0 0 0x05
  | .wrax a c => encodeR c a 0x06
  | .wrhx a c => encodeR c a 0x07
  | .wrlx a c => encodeR c a 0x08
  | .maxx a c => encodeR c a 0x09
  | .absa => encodeR 0 0 0x09
  | .mulx a => encodeX a 0x0A
  | .log c d => encodeCD c d 0x0B
  | .exp c d => encodeCD c d 0x0C
  | .sof c d => encodeCD c d 0x0D
  | .and m => encodeB m 0x0E
  | .clr => encodeB 0 0x0E
  | .or m => encodeB m 0x0F
  | .xor m => encodeB m 0x10
  | .not => encodeB (BitVec.allOnes 24) 0x10
  | .skp f n => encodeS f n
  | .nop => encodeS SkpFlags.none 0
  | .wlds k f a => 0#2 ++ k.bit ++ f ++ a ++ 0x12#5
  | .wldr k f a => 1#2 ++ k.bit ++ f ++ 0#6 ++ a.index ++ 0x12#5
  | .jam k => 0#24 ++ 1#1 ++ k.bit ++ 0#1 ++ 0x13#5
  | .choRda n f a => encodeC 0 f n a
  | .choSof n f d => encodeC 2 f n d
  | .choRdal n f => encodeC 3 f n 0
  | .choUnknown w => w

/-- The word of an opcode-table instruction: bits of `w` above `nbits` are zero. -/
def tableWord (nbits w : Nat) : Word := BitVec.ofNat 32 (w % 2 ^ nbits)

/-- The instruction the decoder reads from the opcode table's numbering of a word, laid out in image bytes. -/
def decodeTableWord (nbits w : Nat) : Option Instr :=
  match decodeBytes (bytesOfWord (tableWord nbits w)) with
  | .ok (i, _) => some i
  | .error _ => none

end Sys2Proof
end

