-- ==== Sys2Proof/Machine/Real64.lean ====
section
/-! DEFINITION. The real numbers of the oscillators, of LOG and of EXP: IEEE binary64 values (R30, R168, R200, R402;
decisions D23, D24, D30). A value is held as a whole number of units of 2^-192, so equal values are equal data; every
operation computes its exact result and rounds it once to 53 significant bits, ties to even. The functions sin, cos,
log2 and exp2 are evaluated in integer arithmetic to far more than 53 bits and rounded once. -/

namespace Sys2Proof.Machine

/-- A real number held in binary64: `units` / 2^192.
DESIGN CHOICE (assumption 3): the grid of 2^-192 holds every binary64 value this core reaches exactly. -/
structure Real64 where
  units : Int
  deriving DecidableEq, Repr

/-- The number of fraction bits of the grid. -/
def realBits : Nat := 192

/-- The value 1.0 in units. -/
def realOne : Nat := 2 ^ realBits

/-- `n / den` rounded to 53 significant bits, ties to even, for a natural `n` and positive `den`. -/
def roundNat (n den : Nat) : Nat :=
  let e := Nat.log2 (n / den) - 52
  let d := den * 2 ^ e
  let q := n / d
  let r := n % d
  (if d < 2 * r ∨ (2 * r = d ∧ q % 2 = 1) then q + 1 else q) * 2 ^ e

/-- The binary64 value nearest to `num / den` units (IEEE 754 round to nearest, ties to even). -/
def roundQuot (num : Int) (den : Nat) : Real64 :=
  ⟨if num < 0 then -(roundNat num.natAbs den : Int) else (roundNat num.natAbs den : Int)⟩

/-- The value 0.0. -/
def Real64.zero : Real64 := ⟨0⟩

/-- The value 1.0. -/
def Real64.one : Real64 := ⟨realOne⟩

/-- An integer as a real; exact for every integer the core converts. -/
def Real64.ofInt (n : Int) : Real64 := ⟨realOne * n⟩

/-- The binary64 quotient of two integers. -/
def Real64.ofRatio (p : Int) (q : Nat) : Real64 := roundQuot (realOne * p) q

/-- Binary64 addition. -/
def Real64.add (a b : Real64) : Real64 := roundQuot (a.units + b.units) 1

/-- Binary64 subtraction. -/
def Real64.sub (a b : Real64) : Real64 := roundQuot (a.units - b.units) 1

/-- Binary64 multiplication. DEDUCED (assumption 17): every operation rounds once, none is fused. -/
def Real64.mul (a b : Real64) : Real64 := roundQuot (a.units * b.units) realOne

/-- Negation, exact. -/
def Real64.neg (a : Real64) : Real64 := ⟨-a.units⟩

/-- Absolute value, exact. -/
def Real64.abs (a : Real64) : Real64 := ⟨a.units.natAbs⟩

/-- The order of the values. -/
def Real64.lt (a b : Real64) : Bool := a.units < b.units

/-- The larger of two values. -/
def Real64.max (a b : Real64) : Real64 := if a.lt b then b else a

/-- The value clamped into [-1, 1]. -/
def Real64.clampUnit (a : Real64) : Real64 := ⟨Max.max (-(realOne : Int)) (Min.min a.units realOne)⟩

/-- Whether the value lies in [-1, 1] (R211). -/
def Real64.inUnit (a : Real64) : Bool := -(realOne : Int) ≤ a.units ∧ a.units ≤ realOne

/-- The largest integer not above the value. -/
def Real64.floor (a : Real64) : Int := a.units / realOne

/-- The binary64 value of 2π: 7074237752028440 / 2^50.
DEDUCED (assumption 4): R201's 2π is the binary64 constant. -/
def Real64.twoPi : Real64 := ⟨7074237752028440 * 2 ^ 142⟩

/-- The number of fraction bits of the working precision of sin and cos. -/
def trigBits : Nat := 250

/-- The next term of the series of sin or cos: the term times the squared argument over the next two factors of the
factorial; `k` is the last factor so far, and all values have `trigBits` fraction bits. -/
def trigNext (x2 k term : Nat) : Nat := term * x2 / 2 ^ trigBits / ((k + 1) * (k + 2))

/-- The sums of the positive and of the negative terms of the alternating series of sin or cos, two terms a round. -/
def trigSeries (x2 : Nat) : (fuel k term pos neg : Nat) → Nat × Nat
  | 0, _, _, pos, neg => (pos, neg)
  | fuel + 1, k, term, pos, neg =>
    let t1 := trigNext x2 k term
    let t2 := trigNext x2 (k + 2) t1
    trigSeries x2 fuel (k + 4) t2 (pos + t2) (neg + t1)

/-- The series of sin (`k` = 1, `first` = x) or of cos (`k` = 0, `first` = 1.0) as a signed number with `trigBits`
fraction bits; 54 terms reach the working precision for every angle in [0, 2π]. -/
def trigSum (x k first : Nat) : Int :=
  let r := trigSeries (x * x / 2 ^ trigBits) 27 k first first 0
  (r.1 : Int) - r.2

/-- `TRIG_FN`: sin of an angle (R202). DESIGN CHOICE (assumption 2): the correctly rounded binary64 value. -/
def Real64.sin (a : Real64) : Real64 :=
  let x := 2 ^ (trigBits - realBits) * a.units.natAbs
  let v := roundQuot (trigSum x 1 x) (2 ^ (trigBits - realBits))
  if a.units < 0 then v.neg.clampUnit else v.clampUnit

/-- `TRIG_FN`: cos of an angle (R202). DESIGN CHOICE (assumption 2): the correctly rounded binary64 value. -/
def Real64.cos (a : Real64) : Real64 :=
  let x := 2 ^ (trigBits - realBits) * a.units.natAbs
  (roundQuot (trigSum x 0 (2 ^ trigBits)) (2 ^ (trigBits - realBits))).clampUnit

/-- The binary digits of log2 of `m / 2^192`, for `m / 2^192` in [1, 2), by repeated squaring, appended to `acc`. -/
def logDigits : (fuel m acc : Nat) → Nat
  | 0, _, acc => acc
  | fuel + 1, m, acc =>
    let sq := m * m / 2 ^ realBits
    if 2 * realOne ≤ sq then logDigits fuel (sq / 2) (2 * acc + 1) else logDigits fuel sq (2 * acc)

/-- log2 of a positive integer in binary64. -/
def Real64.log2 (r : Nat) : Real64 :=
  let k := Nat.log2 r
  roundQuot (2 ^ 96 * logDigits 96 (realOne * r / 2 ^ k) k) 1

/-- `LOG2_FN` (R274, decision D23): log2 of |ACC| divided by 16, as a raw S8.23 integer, not below -2^23.
DESIGN CHOICE (assumption 2): log2 is the correctly rounded binary64 value. -/
def log2Fn (r : Nat) : Int :=
  if r = 0 then -(2 ^ 23)
  else Max.max (Int.tdiv (2 ^ 19 * ((Real64.log2 r).sub (Real64.ofInt 23)).units) realOne) (-(2 ^ 23))

/-- ln 2 with 250 fraction bits. -/
def lnTwo : Nat :=
  1254077502906114200972404753223594852093604181431092915720669804772186827752

/-- The power series of exp from the term of index `k`, with `p` fraction bits. -/
def expSeries (p x : Nat) : (fuel k term acc : Nat) → Nat
  | 0, _, _, acc => acc
  | fuel + 1, k, term, acc =>
    let next := term * x / 2 ^ p / (k + 1)
    expSeries p x fuel (k + 1) next (acc + next)

/-- `EXP2_FN` (R276, decision D24): 2^(16 * ACC) as a raw S8.23 integer: the non-negative range saturates at 2^23 - 1,
the negative range is the binary64 value of 2^(23 + a / 2^19) with its fraction dropped.
DESIGN CHOICE (assumption 2): the power is the correctly rounded binary64 value. -/
def exp2Fn (a : Int) : Int :=
  if 0 ≤ a then 2 ^ 23 - 1
  else
    let x := 23 * 2 ^ 19 + a
    if x < 0 then 0
    else
      let whole := (x / 2 ^ 19).toNat
      let frac := (x % 2 ^ 19).toNat
      let y := expSeries 250 (lnTwo * frac / 2 ^ 19) 60 0 (2 ^ 250) (2 ^ 250)
      (roundQuot (2 ^ whole * y) (2 ^ 58)).floor

end Sys2Proof.Machine
end

