-- ==== Sys2Proof/Machine/State.lean ====
section
/-! DEFINITION. The machine state (R30): every element the spec gives the core, the host's pending commands, and the
reasons a step can stop. -/

namespace Sys2Proof.Machine

/-- A fixed-point value (R160): the raw S8.23 pattern, the declared format, and the out-of-range flag (R161). -/
structure Fixed where
  /-- The 32-bit two's-complement S8.23 pattern. -/
  raw : Word
  /-- Declared integer bits. -/
  ib : Nat
  /-- Declared fraction bits. -/
  fb : Nat
  /-- The result was outside the 24-bit range. -/
  ovf : Bool
  deriving DecidableEq, Repr

/-- A sine oscillator (R200) with its two stored values (R212). -/
structure SineOsc where
  /-- The phase angle in radians. -/
  angle : Real64
  /-- The rate Kf. -/
  rate : Nat
  /-- The amplitude Ka. -/
  range : Nat
  /-- The stored value of the sine selector. -/
  storedSin : Real64
  /-- The stored value of the cosine selector. -/
  storedCos : Real64
  deriving DecidableEq, Repr

/-- A ramp oscillator (R205) with its stored value (R212). -/
structure RampOsc where
  /-- The counter c. -/
  counter : Nat
  /-- The rate Kr. -/
  rate : Int
  /-- The amplitude a. -/
  range : RampRange
  /-- The stored value of the ramp selector. -/
  stored : Real64
  deriving DecidableEq, Repr

/-- The diagnostics record (R250): unbounded counters (R253) and sticky flags. -/
structure Diag where
  oobReads : Nat
  oobWrites : Nat
  accOverflows : Nat
  paccOverflows : Nat
  daclOverflows : Nat
  dacrOverflows : Nat
  qTruncations : Nat
  lfoInvalidSin0 : Bool
  lfoInvalidSin1 : Bool
  lfoInvalidRmp0 : Bool
  lfoInvalidRmp1 : Bool
  lfoInvariantClamps : Nat
  deriving DecidableEq, Repr

/-- Every counter zero and every flag false (R52, R253). -/
def Diag.clear : Diag := ⟨0, 0, 0, 0, 0, 0, 0, false, false, false, false, 0⟩

/-- The delay memory (R70): the words that differ from the reset word, as (index, word) pairs with rising indices.
DESIGN CHOICE (assumption 5): words and not bytes, as R72 has it. -/
structure Memory where
  cells : List (Nat × DelayWord)
  deriving DecidableEq, Repr

/-- The inputs of one sample (R476): the values the host writes to ADCL, ADCR and POT0 to POT2. -/
structure InputFrame where
  adcl : Word
  adcr : Word
  pot0 : Word
  pot1 : Word
  pot2 : Word
  deriving DecidableEq, Repr

/-- What the host does between two samples (R455). DESIGN CHOICE (assumption 7): the host is a queue of commands. -/
inductive HostCommand where
  /-- Write the inputs, advance the oscillators once and start a sample (R476). -/
  | frame (inputs : InputFrame)
  /-- Clear the diagnostics (R253). -/
  | resetDiagnostics
  /-- Load a program image (R470). -/
  | load (image : List Byte)
  deriving DecidableEq, Repr

/-- Whether a `runSample` is in flight (R455, R456). -/
inductive Phase where
  /-- The host acts next. -/
  | betweenSamples
  /-- The engine acts next. -/
  | inSample
  deriving DecidableEq, Repr

/-- The machine state. -/
structure State where
  /-- The configuration, fixed for the life of the state (R470). -/
  cfg : Config
  /-- The program store (R71): the loaded program's words, indexed by IP. DESIGN CHOICE (assumption 6). -/
  program : List Word
  /-- The host's pending commands, the next one first (R455). -/
  host : List HostCommand
  /-- Whose turn it is. -/
  phase : Phase
  /-- The instructions this sample has executed (`steps` of R241). -/
  steps : Nat
  /-- The instruction index (R34). -/
  ip : Nat
  /-- The accumulator (R31). -/
  acc : Fixed
  /-- The previous accumulator (R32). -/
  pacc : Fixed
  /-- The last value read from delay memory (R33). -/
  lr : Fixed
  /-- The register file: the 64 raw slots (R35). -/
  regs : Vector (BitVec 32) 64
  /-- The delay memory (R70). -/
  mem : Memory
  /-- The delay pointer (R44). -/
  dp : Nat
  /-- The run flag (R45). -/
  run : Bool
  /-- Sine oscillator SIN0. -/
  sin0 : SineOsc
  /-- Sine oscillator SIN1. -/
  sin1 : SineOsc
  /-- Ramp oscillator RMP0. -/
  rmp0 : RampOsc
  /-- Ramp oscillator RMP1. -/
  rmp1 : RampOsc
  /-- The diagnostics (R47, R250). -/
  diag : Diag
  deriving DecidableEq, Repr

/-- The CHO flags an incompatible LFO refuses (R441). -/
inductive ChoFlagName where
  | cos
  | rptr2
  | na
  deriving DecidableEq, Repr

/-- Why a step stops with an error the spec names. The state a fault leaves is the state before the step (R442).
DEDUCED (assumption 9). -/
inductive Fault where
  /-- R405, raised by CHO RDA, CHO SOF and CHO RDAL: the flag does not go with the selector. The selector is N
  as decoded (DEDUCED, assumption 11). Safe: the spec's own error. -/
  | incompatibleFlag (flag : ChoFlagName) (selector : LfoSel)
  /-- R413, raised by CHO_UNKNOWN: the reserved sub-command. Safe: the spec's own error. -/
  | unknownInstruction (word : Word)
  /-- R404, raised by the CHO instructions under policy `fault`: an LFO value outside [-1, 1]. Safe: the spec's own error. -/
  | lfoInvariantViolation (value : Real64)
  /-- R255, raised by the sample loop: the step ceiling is reached. Safe: the spec's own error. -/
  | stepCeilingExceeded (ip : Nat)
  /-- R121, R444, raised by a program load, and by a fetch from a program store that no load made: no template. Safe. -/
  | unknownOpcode (index : Nat) (word : Word)
  /-- R131, R444, raised by a program load: the program is too long. Safe: the spec's own error. -/
  | programTooLong (limit : Nat)
  deriving DecidableEq, Repr

/-- Why a step has no meaning. -/
inductive Refusal where
  /-- Raised by an arm of `exec` whose instruction has no meaning yet; no arm answers with it now. Safe. -/
  | notModelled (mnemonic : String)
  /-- Raised by a program load whose image is not whole words: the loader's error, out of scope (R132). Safe. -/
  | malformedImage (bytes : Nat)
  deriving DecidableEq, Repr

/-- Raw 0 declared S8.23 with the flag clear (R52). -/
def Fixed.zero : Fixed := ⟨0, 8, 23, false⟩

/-- The register file after load (R52): zero, but 4096 in the two ramp-range slots. -/
def resetRegs : Vector (BitVec 32) 64 :=
  ((Vector.replicate 64 0#32).set 5 4096#32).set 7 4096#32

/-- A sine oscillator after load (R52). -/
def SineOsc.reset : SineOsc := ⟨Real64.zero, 0, 0, Real64.zero, Real64.zero⟩

/-- A ramp oscillator after load (R52). -/
def RampOsc.reset : RampOsc := ⟨0, 0, .r4096, Real64.zero⟩

/-- The state after load (R52, R470) under the default configuration, with no program placed and no host command
pending. DESIGN CHOICE (assumption 13): the values of cfg, program, host, phase and steps are the model's. -/
def State.reset : State :=
  { cfg := defaultConfig
    program := []
    host := []
    phase := .betweenSamples
    steps := 0
    ip := 0
    acc := Fixed.zero
    pacc := Fixed.zero
    lr := ⟨0, 0, 23, false⟩
    regs := resetRegs
    mem := ⟨[]⟩
    dp := 0
    run := true
    sin0 := SineOsc.reset
    sin1 := SineOsc.reset
    rmp0 := RampOsc.reset
    rmp1 := RampOsc.reset
    diag := Diag.clear }

end Sys2Proof.Machine
end

