-- ==== Sys2Proof/Machine/Flags.lean ====
section
/-! DEFINITION. Flags and conditions: the 24-bit range test behind every out-of-range flag (R161, R162), the sign of a
value (R173) and the five SKP conditions (R381). The core has no flags register (R49). -/

namespace Sys2Proof.Machine

/-- The arithmetic shift right: the floor of `v` / 2^k (R8). -/
def asr (v : Int) (k : Nat) : Int := v / 2 ^ k

/-- Whether an exact result is outside the 24-bit signed range (R161). -/
def outOfRange (s : Int) : Bool := s < -(2 ^ 23) || 2 ^ 23 - 1 < s

/-- The saturation to the 24-bit signed range (R8). -/
def clamp24 (v : Int) : Int := min (max v (-(2 ^ 23))) (2 ^ 23 - 1)

/-- `isNegative` (R173). -/
def isNegative (x : Fixed) : Bool := x.raw.toInt < 0

/-- `sgn` (R173): -1, 0 or 1. -/
def sgn (x : Fixed) : Int := if x.raw.toInt < 0 then -1 else if x.raw.toInt = 0 then 0 else 1

/-- RUN holds after the first pass (R381). -/
def condRun (s : State) : Bool := !s.run

/-- ZRC holds when ACC and PACC differ in three-valued sign (R381). -/
def condZrc (s : State) : Bool := sgn s.acc != sgn s.pacc

/-- ZRO holds when ACC is zero (R381). -/
def condZro (s : State) : Bool := s.acc.raw.toInt == 0

/-- GEZ holds when ACC is not negative (R381). -/
def condGez (s : State) : Bool := !isNegative s.acc

/-- NEG holds when ACC is negative (R381). -/
def condNeg (s : State) : Bool := isNegative s.acc

/-- Whether any selected condition holds (R380: logical OR). -/
def skipTaken (f : SkpFlags) (s : State) : Bool :=
  (f.run && condRun s) || (f.zrc && condZrc s) || (f.zro && condZro s) || (f.gez && condGez s) || (f.neg && condNeg s)

end Sys2Proof.Machine
end

