-- ==== Sys2Proof/Machine/FixedPoint.lean ====
section
/-! DEFINITION. The fixed-point arithmetic unit (40_fixed_point.md): exact integer results, finished once for each
primitive. `clamp` is `CLAMP_ENABLED`. -/

namespace Sys2Proof.Machine

/-- The reading of a raw integer as an S8.23 value, `FP(r)` (R160). -/
def Fixed.ofRaw (r : Word) : Fixed := ⟨r, 8, 23, false⟩

/-- The signed integer of the raw pattern. -/
def Fixed.val (x : Fixed) : Int := x.raw.toInt

/-- The raw integer of a finished result (R162): clamped to 24 bits, or left to wrap at 32 bits. -/
def finishRaw (clamp : Bool) (s : Int) : Word := BitVec.ofInt 32 (if clamp then clamp24 s else s)

/-- The finishing step on an exact result, with the declared format of `x` (R162, R174). -/
def finish (clamp : Bool) (s : Int) (x : Fixed) : Fixed := ⟨finishRaw clamp s, x.ib, x.fb, outOfRange s⟩

/-- Addition (R163). -/
def fpAdd (clamp : Bool) (a b : Fixed) : Fixed := finish clamp (a.val + b.val) a

/-- Subtraction (R165). -/
def fpSub (clamp : Bool) (a b : Fixed) : Fixed := finish clamp (a.val - b.val) a

/-- Multiplication: the exact product shifted right arithmetically by 23 bits (R167). -/
def fpMult (clamp : Bool) (a b : Fixed) : Fixed := finish clamp (asr (a.val * b.val) 23) a

/-- Absolute value (R170). -/
def fpAbs (clamp : Bool) (a : Fixed) : Fixed := finish clamp a.val.natAbs a

/-- The finishing step applied to an existing value (R176). -/
def fpSat (clamp : Bool) (a : Fixed) : Fixed := finish clamp a.val a

/-- The result of a bitwise primitive (R171): no clamping; the flag is set by range. -/
def bitResult (a : Fixed) (r : Word) : Fixed := ⟨r, a.ib, a.fb, outOfRange r.toInt⟩

/-- Bitwise AND with a sign-extended 24-bit mask (R171). -/
def fpAnd (a : Fixed) (m : BitVec 24) : Fixed := bitResult a (a.raw &&& m.signExtend 32)

/-- Bitwise OR with a sign-extended 24-bit mask (R171). -/
def fpOr (a : Fixed) (m : BitVec 24) : Fixed := bitResult a (a.raw ||| m.signExtend 32)

/-- Bitwise XOR with a sign-extended 24-bit mask (R171). -/
def fpXor (a : Fixed) (m : BitVec 24) : Fixed := bitResult a (a.raw ^^^ m.signExtend 32)

/-- Whether a Q-format can be held in S8.23 without loss (R166, R169). -/
def qFormatHeld (i f : Nat) : Bool := i ≤ 8 && f ≤ 23

/-- `fromQ` on a held format: the two's-complement reading moved to 23 fraction bits (R166). -/
def fromQ (i f : Nat) (r : BitVec (1 + i + f)) : Fixed := ⟨BitVec.ofInt 32 (r.toInt * 2 ^ (23 - f)), i, f, false⟩

/-- `setFromQFormat` on any format: the formats outside the domain are refused (R166, 90_conflicts C5). -/
def setFromQFormat (i f : Nat) (r : BitVec (1 + i + f)) : Option Fixed :=
  if qFormatHeld i f then some (fromQ i f r) else none

/-- The signed integer of a value at `f` fraction bits, rounded toward minus infinity (R169, R172). -/
def atFraction (x : Fixed) (f : Nat) : Int := asr x.val (23 - f)

/-- Whether an integer fits a signed field of `n` bits (R169). -/
def fitsSigned (n : Nat) (v : Int) : Bool := -(2 ^ (n - 1)) ≤ v && v ≤ 2 ^ (n - 1) - 1

/-- `toQ` on a held format: the low bits of the value at `f` fraction bits, and whether it fit (R169). -/
def toQ (x : Fixed) (i f : Nat) : BitVec (1 + i + f) × Bool :=
  (BitVec.ofInt (1 + i + f) (atFraction x f), fitsSigned (1 + i + f) (atFraction x f))

/-- `toQFormat` on any format: the formats outside the domain are refused (R169, 90_conflicts C5). -/
def toQFormat (x : Fixed) (i f : Nat) : Option (BitVec (1 + i + f) × Bool) :=
  if qFormatHeld i f then some (toQ x i f) else none

/-- `toReal` (R168): the real number a value denotes. -/
def toReal (x : Fixed) : Real64 := Real64.ofRatio x.val (2 ^ 23)

/-- The raw integer of `fromReal`: truncated toward zero at 23 fraction bits, saturated to 32 bits (R168). -/
def realToRaw (q : Real64) : Int :=
  min (max (Int.tdiv (2 ^ 23 * q.units) realOne) (-(2 ^ 31))) (2 ^ 31 - 1)

/-- `fromReal` (R168): not clamped to 24 bits; the flag is set by range. -/
def fromReal (q : Real64) : Fixed := ⟨BitVec.ofInt 32 (realToRaw q), 8, 23, outOfRange (realToRaw q)⟩

/-- Equality at `f` fraction bits (R172). -/
def equalsWithPrecision (a b : Fixed) (f : Nat) : Bool := atFraction a f == atFraction b f

/-- Equality at the coarser of the two declared precisions (R172); no instruction uses it. -/
def fpEquals (a b : Fixed) : Bool := equalsWithPrecision a b (min a.fb b.fb)

end Sys2Proof.Machine
end

