-- ==== Sys2Proof/Machine/Operands.lean ====
section
/-! DEFINITION. The operand forms: each fixed-point field in its Q-format (R115), the register operand (R35), the register
map (R36) and the address operands (R76). -/

namespace Sys2Proof.Machine

/-- C of RDA, RMPA, WRA and WRAP: S1.9 (R115). -/
def coefS1_9 (c : BitVec 11) : Fixed := fromQ 1 9 c

/-- C of RDAX, RDFX, WRAX, WRHX, WRLX, MAXX, EXP and SOF: S1.14 (R115). -/
def coefS1_14 (c : BitVec 16) : Fixed := fromQ 1 14 c

/-- C of LOG: S4.11 (R115). -/
def coefS4_11 (c : BitVec 16) : Fixed := fromQ 4 11 c

/-- D of LOG: S4.6 (R115). -/
def offsetS4_6 (d : BitVec 11) : Fixed := fromQ 4 6 d

/-- D of EXP and SOF: S.10 (R115). -/
def offsetS_10 (d : BitVec 11) : Fixed := fromQ 0 10 d

/-- D of CHO SOF: S.15 (R115). -/
def offsetS_15 (d : BitVec 16) : Fixed := fromQ 0 15 d

/-- The raw pattern of a register slot (R9, R35). -/
def State.reg (s : State) (a : RegAddr) : Word := s.regs[a.toNat]'a.isLt

/-- A register slot as the S8.23 value that instructions read (R35, decision D27). -/
def State.regFixed (s : State) (a : RegAddr) : Fixed := Fixed.ofRaw (s.reg a)

/-- The address of ADDR_PTR (R36, R38). -/
def addrPtrSlot : RegAddr := 0x18#6

/-- RMPA's base address: ADDR_PTR shifted right by 8 bits (R76, R311, decision D25). -/
def addrPtrBase (s : State) : Int := asr (s.reg addrPtrSlot).toInt 8

/-- The role of a register slot (R36). -/
inductive SlotRole where
  /-- SINk_RATE. -/
  | sineRate (k : SineSel)
  /-- SINk_RANGE. -/
  | sineRange (k : SineSel)
  /-- RMPk_RATE. -/
  | rampRate (k : RampSel)
  /-- RMPk_RANGE. -/
  | rampRange (k : RampSel)
  /-- DACL, the left output. -/
  | dacl
  /-- DACR, the right output. -/
  | dacr
  /-- POT0 to POT2, ADCL, ADCR, ADDR_PTR, REG0 to REG31 and the slots with no role: no side effect (R38, R39, R41). -/
  | plain
  deriving DecidableEq, Repr

/-- The register map (R36). -/
def slotRole (a : RegAddr) : SlotRole :=
  match a.toNat with
  | 0x00 => .sineRate .sin0
  | 0x01 => .sineRange .sin0
  | 0x02 => .sineRate .sin1
  | 0x03 => .sineRange .sin1
  | 0x04 => .rampRate .rmp0
  | 0x05 => .rampRange .rmp0
  | 0x06 => .rampRate .rmp1
  | 0x07 => .rampRange .rmp1
  | 0x16 => .dacl
  | 0x17 => .dacr
  | _ => .plain

/-- The slot SINk_RATE (R36). -/
def sineRateSlot : SineSel → RegAddr
  | .sin0 => 0x00#6
  | .sin1 => 0x02#6

/-- The slot SINk_RANGE (R36). -/
def sineRangeSlot : SineSel → RegAddr
  | .sin0 => 0x01#6
  | .sin1 => 0x03#6

/-- The slot RMPk_RATE (R36). -/
def rampRateSlot : RampSel → RegAddr
  | .rmp0 => 0x04#6
  | .rmp1 => 0x06#6

/-- The slot RMPk_RANGE (R36). -/
def rampRangeSlot : RampSel → RegAddr
  | .rmp0 => 0x05#6
  | .rmp1 => 0x07#6

end Sys2Proof.Machine
end

