-- ==== Sys2Proof/Machine/Oscillators.lean ====
section
/-! DEFINITION. The LFO engine (41_oscillators.md): live values, stored values, setters, reset and advance. -/

namespace Sys2Proof.Machine

/-- `SIN_DELTA(Kf)` (R201, decision D30): Kf / 2^17 radians a sample. -/
def sinDelta (kf : Nat) : Real64 := Real64.ofRatio kf (2 ^ 17)

/-- `SIN_AMP_NORM(Ka)` (R202, decision D30): Ka / 32767. -/
def sinAmpNorm (ka : Nat) : Real64 := Real64.ofRatio ka 32767

/-- The live value of selector SINk (R202). -/
def SineOsc.liveSin (o : SineOsc) : Real64 := o.angle.sin.mul (sinAmpNorm o.range)

/-- The live value of selector COSk (R202). -/
def SineOsc.liveCos (o : SineOsc) : Real64 := o.angle.cos.mul (sinAmpNorm o.range)

/-- The live value of selector RMPk: the counter normalised to [0, 0.5] (R207, decision D32). -/
def RampOsc.live (o : RampOsc) : Real64 := Real64.ofRatio o.counter (2 * rampMax)

/-- `refresh_stored(SINk); refresh_stored(COSk)` (R212). -/
def SineOsc.refresh (o : SineOsc) : SineOsc := { o with storedSin := o.liveSin, storedCos := o.liveCos }

/-- `refresh_stored(RMPk)` (R212). -/
def RampOsc.refresh (o : RampOsc) : RampOsc := { o with stored := o.live }

/-- The phase after one advance, taken back below 2π (R201). -/
def advanceAngle (angle : Real64) (kf : Nat) : Real64 :=
  let sum := angle.add (sinDelta kf)
  if sum.lt Real64.twoPi then sum else sum.sub Real64.twoPi

/-- `advance_sin` (R201). -/
def SineOsc.advance (o : SineOsc) : SineOsc := { o with angle := advanceAngle o.angle o.rate }.refresh

/-- The counter after one advance: modular in both directions (R206, decision D32). -/
def advanceCounter (c : Nat) (kr : Int) : Nat := (((c : Int) - asr kr 2) % (rampMax + 1 : Nat)).toNat

/-- `advance_rmp` (R206). -/
def RampOsc.advance (o : RampOsc) : RampOsc := { o with counter := advanceCounter o.counter o.rate }.refresh

/-- `reset()` of a ramp oscillator (R210). -/
def RampOsc.zeroCounter (o : RampOsc) : RampOsc := { o with counter := 0 }.refresh

/-- The sine oscillator k. -/
def State.sine (s : State) : SineSel → SineOsc
  | .sin0 => s.sin0
  | .sin1 => s.sin1

/-- The ramp oscillator k. -/
def State.ramp (s : State) : RampSel → RampOsc
  | .rmp0 => s.rmp0
  | .rmp1 => s.rmp1

/-- Replace the sine oscillator k. -/
def State.setSine (s : State) (k : SineSel) (o : SineOsc) : State :=
  match k with
  | .sin0 => { s with sin0 := o }
  | .sin1 => { s with sin1 := o }

/-- Replace the ramp oscillator k. -/
def State.setRamp (s : State) (k : RampSel) (o : RampOsc) : State :=
  match k with
  | .rmp0 => { s with rmp0 := o }
  | .rmp1 => { s with rmp1 := o }

/-- Write the raw pattern of a register slot (R9). -/
def State.setReg (s : State) (a : RegAddr) (v : Word) : State := { s with regs := s.regs.set a.toNat v a.isLt }

/-- Set `diag.lfoInvalid[SINk]` when `bad` holds; a set flag stays set (R203, R204, R253). -/
def State.flagSine (s : State) (k : SineSel) (bad : Bool) : State :=
  match k with
  | .sin0 => { s with diag := { s.diag with lfoInvalidSin0 := s.diag.lfoInvalidSin0 || bad } }
  | .sin1 => { s with diag := { s.diag with lfoInvalidSin1 := s.diag.lfoInvalidSin1 || bad } }

/-- Set `diag.lfoInvalid[RMPk]` when `bad` holds; a set flag stays set (R208, R209, R253). -/
def State.flagRamp (s : State) (k : RampSel) (bad : Bool) : State :=
  match k with
  | .rmp0 => { s with diag := { s.diag with lfoInvalidRmp0 := s.diag.lfoInvalidRmp0 || bad } }
  | .rmp1 => { s with diag := { s.diag with lfoInvalidRmp1 := s.diag.lfoInvalidRmp1 || bad } }

/-- An integer clamped into [lo, hi]. -/
def clampInt (lo hi v : Int) : Int := min (max v lo) hi

/-- Whether an integer lies outside [lo, hi]. -/
def outside (lo hi v : Int) : Bool := v < lo || hi < v

/-- `setRate_sin` (R203). -/
def setRateSine (k : SineSel) (raw : Int) (s : State) : State :=
  let kf := clampInt 0 sineRateMax raw
  ((s.flagSine k (outside 0 sineRateMax raw)).setSine k { s.sine k with rate := kf.toNat }).setReg
    (sineRateSlot k) (BitVec.ofInt 32 kf)

/-- `setAmplitude_sin` (R204). -/
def setRangeSine (k : SineSel) (raw : Int) (s : State) : State :=
  let ka := clampInt 0 sineRangeMax raw
  ((s.flagSine k (outside 0 sineRangeMax raw)).setSine k { s.sine k with range := ka.toNat }.refresh).setReg
    (sineRangeSlot k) (BitVec.ofInt 32 ka)

/-- `setRate_rmp` (R208). -/
def setRateRamp (k : RampSel) (raw : Int) (s : State) : State :=
  let kr := clampInt rampRateMin rampRateMax raw
  ((s.flagRamp k (outside rampRateMin rampRateMax raw)).setRamp k { s.ramp k with rate := kr }).setReg
    (rampRateSlot k) (BitVec.ofInt 32 kr)

/-- Set a ramp amplitude and its slot; the stored value stays (R209). -/
def setRangeRamp (k : RampSel) (a : RampRange) (s : State) : State :=
  (s.setRamp k { s.ramp k with range := a }).setReg (rampRangeSlot k) (BitVec.ofNat 32 a.toNat)

/-- The largest amplitude step not above a raw value, 512 below that (R209, decision D31). -/
def rampStepBelow (raw : Int) : RampRange :=
  if 4096 ≤ raw then .r4096 else if 2048 ≤ raw then .r2048 else if 1024 ≤ raw then .r1024 else .r512

/-- `setAmplitudeRaw_rmp` (R209): a value that is no step is flagged and rounded down to one. -/
def setRangeRampRaw (k : RampSel) (raw : Int) (s : State) : State :=
  setRangeRamp k (rampStepBelow raw) (s.flagRamp k (raw != (rampStepBelow raw).toNat))

/-- `reset_rmp` (R210, R362). -/
def zeroRamp (k : RampSel) (s : State) : State := s.setRamp k (s.ramp k).zeroCounter

/-- `advance()` on all four oscillators, once each (R213, R476). -/
def advanceAll (s : State) : State :=
  { s with sin0 := s.sin0.advance, sin1 := s.sin1.advance, rmp0 := s.rmp0.advance, rmp1 := s.rmp1.advance }

end Sys2Proof.Machine
end

