-- ==== Sys2Proof/Machine/Ops.lean ====
section
/-! DEFINITION. The named operations over the delay memory, the registers and the accumulator that every instruction
rule uses, and the one operation that raises an engine error. -/

namespace Sys2Proof.Machine

/-- What a delay index that nothing has written reads as: 0 (R52). -/
def blankWord : DelayWord := 0

/-- The lookup behind `Memory.read`. -/
def readCells : List (Nat × DelayWord) → Nat → DelayWord
  | [], _ => blankWord
  | (b, v) :: rest, i => if i = b then v else readCells rest i

/-- The insertion behind `Memory.write`: rising indices, no blank word listed. -/
def writeCells : List (Nat × DelayWord) → Nat → DelayWord → List (Nat × DelayWord)
  | [], i, v => if v = blankWord then [] else [(i, v)]
  | (b, u) :: rest, i, v =>
    if i < b then (if v = blankWord then (b, u) :: rest else (i, v) :: (b, u) :: rest)
    else if i = b then (if v = blankWord then rest else (i, v) :: rest)
    else (b, u) :: writeCells rest i v

/-- `MemRead(i, 1)` (R9, R72). -/
def Memory.read (m : Memory) (i : Nat) : DelayWord := readCells m.cells i

/-- `MemWrite(i, 1, v)` (R9, R72). -/
def Memory.write (m : Memory) (i : Nat) (v : DelayWord) : Memory := ⟨writeCells m.cells i v⟩

/-- The canonical form from a lower bound on the indices: strictly rising, in the delay memory, no blank word. -/
def cellsFrom : Nat → List (Nat × DelayWord) → Bool
  | _, [] => true
  | lo, (b, v) :: rest => decide (lo ≤ b) && decide (b < delaySize) && (v != blankWord) && cellsFrom (b + 1) rest

/-- The canonical form of the delay memory: equal memories are equal data. -/
def Memory.wf (m : Memory) : Bool := cellsFrom 0 m.cells

/-- Raise an engine error (R442): the step has no effect and answers the error; there is no trap entry (R446). -/
def raise (e : Fault) : Host.Outcome State Fault Refusal := .fault e

/-- The code of an engine error (R441); decode errors have codes of their own (R444). -/
def engineErrorCode : Fault → Option Nat
  | .incompatibleFlag _ _ => some 1
  | .unknownInstruction _ => some 2
  | .lfoInvariantViolation _ => some 3
  | .stepCeilingExceeded _ => some 4
  | .unknownOpcode _ _ => none
  | .programTooLong _ => none

/-- `IP <- IP + 1` after an instruction that did not jump (R247). -/
def State.nextIp (s : State) : State := { s with ip := s.ip + 1 }

/-- `ACC <- v`: a value written into ACC has declared format S8.23 (R174, R248). -/
def State.writeAcc (s : State) (v : Fixed) : State := { s with acc := { v with ib := 8, fb := 23 } }

/-- `capturePACC` (R244). -/
def State.capturePacc (s : State) : State :=
  { s with pacc := s.acc, diag := { s.diag with paccOverflows := s.diag.paccOverflows + s.acc.ovf.toNat } }

/-- Count the out-of-range results among an instruction's arithmetic primitives (R251). -/
def State.countOvf (s : State) (results : List Fixed) : State :=
  { s with diag := { s.diag with accOverflows := s.diag.accOverflows + results.countP (·.ovf) } }

/-- Finish an instruction that writes ACC: count the results of its primitives, write ACC, advance IP. -/
def State.finishAcc (s : State) (results : List Fixed) (v : Fixed) : State :=
  ((s.countOvf results).writeAcc v).nextIp

/-- Whether a delay access reads or writes (R74). -/
inductive AccessKind where
  | read
  | write
  deriving DecidableEq, Repr

/-- Whether a base address is outside the delay memory (R74). -/
def baseOob (a : Int) : Bool := a < 0 || (delaySize : Int) ≤ a

/-- A base address clamped into the delay memory (R74). -/
def clampBase (a : Int) : Nat := (clampInt 0 (delaySize - 1 : Nat) a).toNat

/-- The effective delay index of a base address (R74). -/
def delayIndex (s : State) (a : Int) : Nat := (clampBase a + s.dp) % delaySize

/-- Count an out-of-bounds base address (R74, R75). -/
def State.countOob (s : State) (kind : AccessKind) (a : Int) : State :=
  match kind with
  | .read => { s with diag := { s.diag with oobReads := s.diag.oobReads + (baseOob a).toNat } }
  | .write => { s with diag := { s.diag with oobWrites := s.diag.oobWrites + (baseOob a).toNat } }

/-- The value of a delay word as LR holds it: S.23 (R78). -/
def ofDelayWord (w : DelayWord) : Fixed := fromQ 0 23 w

/-- A delay read: count the base if it is out of range and set LR (R78). -/
def State.delayRead (s : State) (a : Int) : State :=
  { s.countOob .read a with lr := ofDelayWord (s.mem.read (delayIndex s a)) }

/-- A delay write of ACC: count the base, count a value that does not fit, store its low 24 bits (R77). -/
def State.delayWrite (s : State) (a : Int) : State :=
  let q := toQ s.acc 0 23
  let t := s.countOob .write a
  { t with
    mem := s.mem.write (delayIndex s a) q.1
    diag := { t.diag with qTruncations := t.diag.qTruncations + (!q.2).toNat } }

/-- Count a write of an out-of-range value to DACL or DACR (R40, R251). -/
def State.countDac (s : State) (left : Bool) (v : Fixed) : State :=
  if left then { s with diag := { s.diag with daclOverflows := s.diag.daclOverflows + v.ovf.toNat } }
  else { s with diag := { s.diag with dacrOverflows := s.diag.dacrOverflows + v.ovf.toNat } }

/-- `regWrite` (R333): a write to an LFO slot reprograms its oscillator, a write to a DAC slot counts an out-of-range
value, any other write stores the raw pattern alone (DEDUCED, assumption 15). The shifts are `WRAX_LFO_CONV` (decision D28). -/
def regWrite (a : RegAddr) (v : Fixed) (s : State) : State :=
  match slotRole a with
  | .sineRate k => setRateSine k (asr v.val 14) s
  | .sineRange k => setRangeSine k (asr v.val 8) s
  | .rampRate k => setRateRamp k (asr v.val 8) s
  | .rampRange k => setRangeRampRaw k (asr v.val 11) s
  | .dacl => (s.setReg a v.raw).countDac true v
  | .dacr => (s.setReg a v.raw).countDac false v
  | .plain => s.setReg a v.raw

end Sys2Proof.Machine
end

