-- ==== Sys2Proof/Machine/Bitwise.lean ====
section
/-! DEFINITION. The bitwise family: AND, CLR, OR, XOR, NOT (44_bitwise.md). No primitive of it counts an overflow (R251). -/

namespace Sys2Proof.Machine

/-- AND (R290). -/
def execAnd (m : BitVec 24) (s : State) : Host.Outcome State Fault Refusal :=
  .next (s.capturePacc.finishAcc [] (fpAnd s.acc m))

/-- CLR (R291). -/
def execClr (s : State) : Host.Outcome State Fault Refusal :=
  .next (s.capturePacc.finishAcc [] (fpAnd s.acc 0))

/-- OR (R292): PACC is not refreshed. -/
def execOr (m : BitVec 24) (s : State) : Host.Outcome State Fault Refusal :=
  .next (s.finishAcc [] (fpOr s.acc m))

/-- XOR (R293). -/
def execXor (m : BitVec 24) (s : State) : Host.Outcome State Fault Refusal :=
  .next (s.capturePacc.finishAcc [] (fpXor s.acc m))

/-- NOT (R294). -/
def execNot (s : State) : Host.Outcome State Fault Refusal :=
  .next (s.capturePacc.finishAcc [] (fpXor s.acc (BitVec.allOnes 24)))

end Sys2Proof.Machine
end

