-- ==== Sys2Proof/Machine/ChoEval.lean ====
section
/-! DEFINITION. The shared LFO evaluation of the CHO instructions (R400 to R405). It reads the state and writes nothing;
it answers the value, the delay offset, the coefficient and how many values were clamped, or the first error met. -/

namespace Sys2Proof.Machine

/-- What `cho_eval` returns (R405), with the number of clamped LFO values (R404). -/
structure ChoResult where
  /-- The final LFO value v. -/
  value : Real64
  /-- The delay offset. -/
  offset : Int
  /-- The coefficient c. -/
  coef : Real64
  /-- The values clamped under policy `clamp`. -/
  clamps : Nat
  deriving DecidableEq, Repr

/-- The phase step of the sine selectors: the flag COS chooses the cosine, REG the stored value (R401). -/
def sineValue (o : SineOsc) (f : ChoFlags) : Real64 :=
  if f.cos then (if f.reg then o.storedCos else o.liveCos) else (if f.reg then o.storedSin else o.liveSin)

/-- The ramp selectors' raw value: REG chooses the stored value (R401). -/
def rampValue (o : RampOsc) (f : ChoFlags) : Real64 := if f.reg then o.stored else o.live

/-- `checkInvariant` (R404, R211; DEDUCED, assumption 18): the value, or its clamp, with the number of clamps so far. -/
def checkInvariant (policy : LfoInvariantPolicy) (n : Nat) (y : Real64) : Except Fault (Real64 × Nat) :=
  if y.inUnit then .ok (y, n)
  else match policy with
    | .fault => .error (.lfoInvariantViolation y)
    | .clamp => .ok (y.clampUnit, n + 1)

/-- RPTR2 on a ramp: a quarter is added, half of the range [0, 0.5], and the sum is taken back below 0.5 (R402,
decision D35). -/
def rptr2Value (v : Real64) : Real64 :=
  let w := v.add (Real64.ofRatio 1 4)
  if w.lt (Real64.ofRatio 1 2) then w else w.sub (Real64.ofRatio 1 2)

/-- COMPA on a ramp: amplitude / 4096 minus the value (R402, decision D36). -/
def rampCompa (amp : RampRange) (v : Real64) : Real64 := (Real64.ofRatio amp.toNat 4096).sub v

/-- `ADDR_SCALE` of a sine selector (R403, decision D38). -/
def sineScale : Real64 := Real64.ofInt 32767

/-- `ADDR_SCALE` of a ramp selector (R403, decision D38). -/
def rampScale (amp : RampRange) : Real64 := Real64.ofInt (2 * amp.toNat)

/-- `XFADE` (R404, decision D37): max(0, 1 - |4v - 1|). -/
def xfade (v : Real64) : Real64 :=
  Real64.zero.max (Real64.one.sub ((((Real64.ofInt 4).mul v).sub Real64.one).abs))

/-- 1 - y when COMPC is set, y otherwise (R404, decision D36). -/
def compc (f : ChoFlags) (y : Real64) : Real64 := if f.compc then Real64.one.sub y else y

/-- The fractional part of the scaled address (R404). -/
def addrFraction (scale v : Real64) : Real64 :=
  let p := v.mul scale
  p.sub (Real64.ofInt p.floor)

/-- The coefficient when NA is clear (R404, decision D39). -/
def plainCoef (mode : ChoCoefMode) (scale : Real64) (f : ChoFlags) (v : Real64) : Real64 :=
  match mode with
  | .lfoValue => compc f v
  | .fraction => compc f (addrFraction scale v)

/-- The evaluation for a sine selector: steps 2 to 5 with the checks of R402 and R404 in their order. -/
def choEvalSine (s : State) (k : SineSel) (f : ChoFlags) : Except Fault ChoResult := do
  let (v, n) ← checkInvariant s.cfg.lfoPolicy 0 (sineValue (s.sine k) f)
  if f.rptr2 then .error (.incompatibleFlag .rptr2 (.sine k))
  else
    let (v, n) ← if f.compa then checkInvariant s.cfg.lfoPolicy n v.neg else .ok (v, n)
    if f.na then .error (.incompatibleFlag .na (.sine k))
    else .ok ⟨v, (v.mul sineScale).floor, plainCoef s.cfg.choCoefMode sineScale f v, n⟩

/-- The evaluation for a ramp selector: steps 1 to 5 with the checks of R401, R402 and R404 in their order. -/
def choEvalRamp (s : State) (k : RampSel) (f : ChoFlags) : Except Fault ChoResult := do
  let amp := (s.ramp k).range
  if f.cos then .error (.incompatibleFlag .cos (.ramp k))
  else
    let (v, n) ← checkInvariant s.cfg.lfoPolicy 0 (rampValue (s.ramp k) f)
    let (v, n) ← if f.rptr2 then checkInvariant s.cfg.lfoPolicy n (rptr2Value v) else .ok (v, n)
    let (v, n) ← if f.compa then checkInvariant s.cfg.lfoPolicy n (rampCompa amp v) else .ok (v, n)
    if f.na then
      let (x, n) ← checkInvariant s.cfg.lfoPolicy n (xfade v)
      .ok ⟨v, 0, compc f x, n⟩
    else .ok ⟨v, (v.mul (rampScale amp)).floor, plainCoef s.cfg.choCoefMode (rampScale amp) f v, n⟩

/-- `cho_eval` (R405). -/
def choEval (s : State) (n : LfoSel) (f : ChoFlags) : Except Fault ChoResult :=
  match n with
  | .sine k => choEvalSine s k f
  | .ramp k => choEvalRamp s k f

/-- Add the clamped values of an evaluation to `diag.lfoInvariantClamps` (R404). -/
def State.countClamps (s : State) (n : Nat) : State :=
  { s with diag := { s.diag with lfoInvariantClamps := s.diag.lfoInvariantClamps + n } }

end Sys2Proof.Machine
end

