-- ==== Sys2Proof/Machine/DelayMemory.lean ====
section
/-! DEFINITION. The delay-memory family: RDA, RMPA, WRA, WRAP (45_delay_memory.md). -/

namespace Sys2Proof.Machine

/-- Capture PACC, read delay memory at base `a` into LR, then fold LR times `cv` into ACC (R310, R311, R410). -/
def readAccumulate (a : Int) (cv : Fixed) (s : State) : State :=
  let t := s.capturePacc.delayRead a
  let p := fpMult s.cfg.clampEnabled t.lr cv
  let r := fpAdd s.cfg.clampEnabled s.acc p
  t.finishAcc [p, r] r

/-- RDA (R310). -/
def execRda (a : DelayAddr) (c : BitVec 11) (s : State) : Host.Outcome State Fault Refusal :=
  .next (readAccumulate a.toNat (coefS1_9 c) s)

/-- RMPA (R311). -/
def execRmpa (c : BitVec 11) (s : State) : Host.Outcome State Fault Refusal :=
  .next (readAccumulate (addrPtrBase s) (coefS1_9 c) s)

/-- WRA (R312). -/
def execWra (a : DelayAddr) (c : BitVec 11) (s : State) : Host.Outcome State Fault Refusal :=
  let p := fpMult s.cfg.clampEnabled s.acc (coefS1_9 c)
  .next ((s.capturePacc.delayWrite a.toNat).finishAcc [p] p)

/-- WRAP (R313). -/
def execWrap (a : DelayAddr) (c : BitVec 11) (s : State) : Host.Outcome State Fault Refusal :=
  let p := fpMult s.cfg.clampEnabled s.acc (coefS1_9 c)
  let r := fpAdd s.cfg.clampEnabled p s.lr
  .next ((s.capturePacc.delayWrite a.toNat).finishAcc [p, r] r)

end Sys2Proof.Machine
end

