-- ==== Sys2Proof/Machine/Chorus.lean ====
section
/-! DEFINITION. The chorus family: CHO RDA, CHO SOF, CHO RDAL, CHO_UNKNOWN (49_chorus.md). The evaluation comes first, so
an error leaves the state as it was (R405). -/

namespace Sys2Proof.Machine

/-- CHO RDA (R410). -/
def execChoRda (n : LfoSel) (f : ChoFlags) (a : DelayAddr) (s : State) : Host.Outcome State Fault Refusal :=
  match choEval s n f with
  | .error e => raise e
  | .ok r => .next (readAccumulate (a.toNat + r.offset) (fromReal r.coef) (s.countClamps r.clamps))

/-- CHO SOF (R411). -/
def execChoSof (n : LfoSel) (f : ChoFlags) (d : BitVec 16) (s : State) : Host.Outcome State Fault Refusal :=
  match choEval s n f with
  | .error e => raise e
  | .ok r =>
    let p := fpMult s.cfg.clampEnabled s.acc (fromReal r.coef)
    let q := fpAdd s.cfg.clampEnabled p (offsetS_15 d)
    .next ((s.countClamps r.clamps).capturePacc.finishAcc [p, q] q)

/-- CHO RDAL (R412). -/
def execChoRdal (n : LfoSel) (f : ChoFlags) (s : State) : Host.Outcome State Fault Refusal :=
  match choEval s n f with
  | .error e => raise e
  | .ok r =>
    let v := fpSat s.cfg.clampEnabled (fromReal r.coef)
    .next ((s.countClamps r.clamps).capturePacc.finishAcc [v] v)

/-- CHO_UNKNOWN (R413): always an error, before any state change. -/
def execChoUnknown (word : Word) (_s : State) : Host.Outcome State Fault Refusal := raise (.unknownInstruction word)

end Sys2Proof.Machine
end

