-- ==== Sys2Proof/Machine/LfoLoad.lean ====
section
/-! DEFINITION. The LFO-load family: WLDS, WLDR, JAM (47_lfo_load.md). None of them touches ACC or PACC. -/

namespace Sys2Proof.Machine

/-- WLDS (R360): the rate, then the amplitude; the phase is kept. -/
def execWlds (k : SineSel) (f : BitVec 9) (a : BitVec 15) (s : State) : Host.Outcome State Fault Refusal :=
  .next (setRangeSine k a.toNat (setRateSine k f.toNat s)).nextIp

/-- WLDR (R361): the signed rate, then the amplitude; the counter is kept. -/
def execWldr (k : RampSel) (f : BitVec 16) (a : RampRange) (s : State) : Host.Outcome State Fault Refusal :=
  .next (setRangeRamp k a (setRateRamp k f.toInt s)).nextIp

/-- JAM (R362): the counter becomes 0. -/
def execJam (k : RampSel) (s : State) : Host.Outcome State Fault Refusal :=
  .next (zeroRamp k s).nextIp

end Sys2Proof.Machine
end

