-- ==== Sys2Proof/Machine/Register.lean ====
section
/-! DEFINITION. The register family: RDAX, RDFX, LDAX, WRAX, WRHX, WRLX, MAXX, ABSA, MULX (46_register.md). -/

namespace Sys2Proof.Machine

/-- RDAX (R330). -/
def execRdax (a : RegAddr) (c : BitVec 16) (s : State) : Host.Outcome State Fault Refusal :=
  let p := fpMult s.cfg.clampEnabled (s.regFixed a) (coefS1_14 c)
  let r := fpAdd s.cfg.clampEnabled s.acc p
  .next (s.capturePacc.finishAcc [p, r] r)

/-- (ACC - R) * C + R with the three primitives finished and counted; PACC has just become ACC (R331). -/
def filterRegister (x cv : Fixed) (s : State) : State :=
  let d := fpSub s.cfg.clampEnabled s.acc x
  let p := fpMult s.cfg.clampEnabled d cv
  let r := fpAdd s.cfg.clampEnabled p x
  s.capturePacc.finishAcc [d, p, r] r

/-- RDFX (R331). -/
def execRdfx (a : RegAddr) (c : BitVec 16) (s : State) : Host.Outcome State Fault Refusal :=
  .next (filterRegister (s.regFixed a) (coefS1_14 c) s)

/-- LDAX (R332): RDFX with A = 0 and C = 0. -/
def execLdax (s : State) : Host.Outcome State Fault Refusal :=
  .next (filterRegister (s.regFixed 0) (coefS1_14 0) s)

/-- WRAX (R334): the unscaled ACC is stored, then ACC is scaled. -/
def execWrax (a : RegAddr) (c : BitVec 16) (s : State) : Host.Outcome State Fault Refusal :=
  let p := fpMult s.cfg.clampEnabled s.acc (coefS1_14 c)
  .next ((regWrite a s.acc s.capturePacc).finishAcc [p] p)

/-- WRHX (R335): ACC * C + P, with P the PACC from before the capture. -/
def execWrhx (a : RegAddr) (c : BitVec 16) (s : State) : Host.Outcome State Fault Refusal :=
  let p := fpMult s.cfg.clampEnabled s.acc (coefS1_14 c)
  let r := fpAdd s.cfg.clampEnabled p s.pacc
  .next ((regWrite a s.acc s.capturePacc).finishAcc [p, r] r)

/-- WRLX (R336): (P - ACC) * C + P, with P the PACC from before the capture. -/
def execWrlx (a : RegAddr) (c : BitVec 16) (s : State) : Host.Outcome State Fault Refusal :=
  let d := fpSub s.cfg.clampEnabled s.pacc s.acc
  let p := fpMult s.cfg.clampEnabled d (coefS1_14 c)
  let r := fpAdd s.cfg.clampEnabled p s.pacc
  .next ((regWrite a s.acc s.capturePacc).finishAcc [d, p, r] r)

/-- The larger of |ACC| and |R * C|, ACC's own on a tie, with the three primitives counted (R337). -/
def maxRegister (x cv : Fixed) (s : State) : State :=
  let a := fpAbs s.cfg.clampEnabled s.acc
  let p := fpMult s.cfg.clampEnabled x cv
  let b := fpAbs s.cfg.clampEnabled p
  s.capturePacc.finishAcc [a, p, b] (if a.val < b.val then b else a)

/-- MAXX (R337). -/
def execMaxx (a : RegAddr) (c : BitVec 16) (s : State) : Host.Outcome State Fault Refusal :=
  .next (maxRegister (s.regFixed a) (coefS1_14 c) s)

/-- ABSA (R338): MAXX with A = 0 and C = 0. -/
def execAbsa (s : State) : Host.Outcome State Fault Refusal :=
  .next (maxRegister (s.regFixed 0) (coefS1_14 0) s)

/-- MULX (R339). -/
def execMulx (a : RegAddr) (s : State) : Host.Outcome State Fault Refusal :=
  let p := fpMult s.cfg.clampEnabled s.acc (s.regFixed a)
  .next (s.capturePacc.finishAcc [p] p)

end Sys2Proof.Machine
end

