-- ==== Sys2Proof/Machine/ScaleOffset.lean ====
section
/-! DEFINITION. The scale/offset family: SOF, LOG, EXP (43_scale_offset.md). -/

namespace Sys2Proof.Machine

/-- The family's contract (R270): capture PACC, then `fp_add(fp_mult(F, Cv), Dv)` with each primitive finished and
counted; `x` is F as a function value of the old ACC. -/
def scaleOffset (x cv dv : Fixed) (s : State) : State :=
  let p := fpMult s.cfg.clampEnabled x cv
  let r := fpAdd s.cfg.clampEnabled p dv
  s.capturePacc.finishAcc [p, r] r

/-- SOF (R272). -/
def execSof (c : BitVec 16) (d : BitVec 11) (s : State) : Host.Outcome State Fault Refusal :=
  .next (scaleOffset s.acc (coefS1_14 c) (offsetS_10 d) s)

/-- The LOG intermediate of an accumulator (R274). -/
def logValue (acc : Fixed) : Fixed := Fixed.ofRaw (BitVec.ofInt 32 (log2Fn acc.val.natAbs))

/-- LOG (R274). -/
def execLog (c : BitVec 16) (d : BitVec 11) (s : State) : Host.Outcome State Fault Refusal :=
  .next (scaleOffset (logValue s.acc) (coefS4_11 c) (offsetS4_6 d) s)

/-- The EXP intermediate of an accumulator (R276). -/
def expValue (acc : Fixed) : Fixed := Fixed.ofRaw (BitVec.ofInt 32 (exp2Fn acc.val))

/-- EXP (R276). -/
def execExp (c : BitVec 16) (d : BitVec 11) (s : State) : Host.Outcome State Fault Refusal :=
  .next (scaleOffset (expValue s.acc) (coefS1_14 c) (offsetS_10 d) s)

end Sys2Proof.Machine
end

