-- ==== Sys2Proof/Machine/Skip.lean ====
section
/-! DEFINITION. The skip family: SKP, NOP (48_skip.md). -/

namespace Sys2Proof.Machine

/-- The index a SKP at this state continues at (R380, decision D58). -/
def skipTarget (f : SkpFlags) (n : BitVec 6) (s : State) : Nat :=
  if skipTaken f s then s.ip + n.toNat + s.cfg.skpTargetBias else s.ip + 1

/-- SKP (R380). -/
def execSkp (f : SkpFlags) (n : BitVec 6) (s : State) : Host.Outcome State Fault Refusal :=
  .next { s with ip := skipTarget f n s }

/-- NOP (R382). -/
def execNop (s : State) : Host.Outcome State Fault Refusal := .next s.nextIp

end Sys2Proof.Machine
end

