-- ==== Sys2Proof/Machine/Dispatch.lean ====
section
/-! DEFINITION. The dispatch of R243: one arm for each instruction. -/

namespace Sys2Proof.Machine

def exec (i : Instr) (s : State) : Host.Outcome State Fault Refusal :=
  match i with
  | .rda a c => Sys2Proof.Machine.execRda a c s
  | .rmpa c => Sys2Proof.Machine.execRmpa c s
  | .wra a c => Sys2Proof.Machine.execWra a c s
  | .wrap a c => Sys2Proof.Machine.execWrap a c s
  | .rdax a c => Sys2Proof.Machine.execRdax a c s
  | .rdfx a c => Sys2Proof.Machine.execRdfx a c s
  | .ldax => Sys2Proof.Machine.execLdax s
  | .wrax a c => Sys2Proof.Machine.execWrax a c s
  | .wrhx a c => Sys2Proof.Machine.execWrhx a c s
  | .wrlx a c => Sys2Proof.Machine.execWrlx a c s
  | .maxx a c => Sys2Proof.Machine.execMaxx a c s
  | .absa => Sys2Proof.Machine.execAbsa s
  | .mulx a => Sys2Proof.Machine.execMulx a s
  | .log c d => Sys2Proof.Machine.execLog c d s
  | .exp c d => Sys2Proof.Machine.execExp c d s
  | .sof c d => Sys2Proof.Machine.execSof c d s
  | .and m => Sys2Proof.Machine.execAnd m s
  | .clr => Sys2Proof.Machine.execClr s
  | .or m => Sys2Proof.Machine.execOr m s
  | .xor m => Sys2Proof.Machine.execXor m s
  | .not => Sys2Proof.Machine.execNot s
  | .skp f n => Sys2Proof.Machine.execSkp f n s
  | .nop => Sys2Proof.Machine.execNop s
  | .wlds k f a => Sys2Proof.Machine.execWlds k f a s
  | .wldr k f a => Sys2Proof.Machine.execWldr k f a s
  | .jam k => Sys2Proof.Machine.execJam k s
  | .choRda n f a => Sys2Proof.Machine.execChoRda n f a s
  | .choSof n f d => Sys2Proof.Machine.execChoSof n f d s
  | .choRdal n f => Sys2Proof.Machine.execChoRdal n f s
  | .choUnknown word => Sys2Proof.Machine.execChoUnknown word s

end Sys2Proof.Machine
end

