-- ==== Sys2Proof/Machine/Engine.lean ====
section
/-! DEFINITION. The execution engine and its host: the sample loop (R240 to R249, R255), the end of a sample (R242), and
what the host does between two samples (R455, R470, R476). -/

namespace Sys2Proof.Machine

/-- The word at IP; `none` at or beyond the program's end (R240, R241). -/
def fetch (s : State) : Option Word := s.program[s.ip]?

/-- Count an executed instruction (`steps` of R241). -/
def State.countStep (s : State) : State := { s with steps := s.steps + 1 }

/-- Execute one fetched word (R241): its Operation is what the decoder reads from it. A word without a template is in no
loaded program (R121); it is the decoder's error. -/
def executeWord (w : Word) (s : State) : Host.Outcome State Fault Refusal :=
  match decodeWord w with
  | .error _ => raise (.unknownOpcode s.ip w)
  | .ok i =>
    match exec i s with
    | .next t => .next t.countStep
    | .fault e => .fault e
    | .refused r => .refused r

/-- `endOfSample` (R242): RUN becomes false and DP falls by one, modulo the delay size; nothing else changes. -/
def endOfSample (s : State) : State :=
  { s with run := false, dp := (((s.dp : Int) - 1) % (delaySize : Int)).toNat }

/-- DEDUCED (assumption 12). The end of the loop as `stepOneInstruction` leaves it (R249): the sample ends, IP is 0 and the host acts next. -/
def leaveSample (s : State) : State := { endOfSample s with ip := 0, steps := 0, phase := .betweenSamples }

/-- One iteration of the sample loop (R241, R249): end the sample when IP is at or beyond the program's end, stop at the
step ceiling (R255), otherwise execute one instruction. -/
def sampleStep (s : State) : Host.Outcome State Fault Refusal :=
  match fetch s with
  | none => .next (leaveSample s)
  | some w => if maxStepsPerSample ≤ s.steps then raise (.stepCeilingExceeded s.ip) else executeWord w s

/-- The start of a sample (R240): IP is 0, no instruction has run, and the engine acts next. -/
def startSample (s : State) : State := { s with ip := 0, steps := 0, phase := .inSample }

/-- The host's direct writes of ADCL, ADCR and POT0 to POT2 (R39, R476). -/
def writeInputs (f : InputFrame) (s : State) : State :=
  ((((s.setReg 0x14 f.adcl).setReg 0x15 f.adcr).setReg 0x10 f.pot0).setReg 0x11 f.pot1).setReg 0x12 f.pot2

/-- The host's part of a sample (R476): write the inputs, advance the four oscillators once, start `runSample`. -/
def beginFrame (f : InputFrame) (s : State) : State := startSample (advanceAll (writeInputs f s))

/-- The state a program load creates (R470): every element at its reset value, with the program, the configuration that
was in force and the host's remaining commands (DESIGN CHOICE, assumption 14). -/
def loadedState (cfg : Config) (program : List Word) (host : List HostCommand) : State :=
  { State.reset with cfg := cfg, program := program, host := host }

/-- `load` (R470): an image that does not decode creates no state and answers its error. -/
def loadProgram (image : List Byte) (cfg : Config) (host : List HostCommand) : Host.Outcome State Fault Refusal :=
  match decodeImage image with
  | .ok program => .next (loadedState cfg program host)
  | .error (.unknownOpcode index word) => raise (.unknownOpcode index word)
  | .error (.programTooLong limit) => raise (.programTooLong limit)
  | .error (.malformedStream bytes) => .refused (.malformedImage bytes)

/-- `resetDiagnostics` (R253): the diagnostics are cleared and nothing else changes. -/
def resetDiagnostics (s : State) : State := { s with diag := Diag.clear }

/-- Between two samples the host carries out its next command (R455); with none pending the core does nothing (R457). -/
def hostStep (s : State) : Host.Outcome State Fault Refusal :=
  match s.host with
  | [] => .next s
  | .frame f :: rest => .next (beginFrame f { s with host := rest })
  | .resetDiagnostics :: rest => .next (resetDiagnostics { s with host := rest })
  | .load image :: rest => loadProgram image s.cfg rest

/-- One step of the machine: the agent whose turn it is acts (R11, R249). -/
def engineStep (s : State) : Host.Outcome State Fault Refusal :=
  match s.phase with
  | .betweenSamples => hostStep s
  | .inSample => sampleStep s

/-- The loop of R241 with `fuel` instructions left below the ceiling. -/
def runLoop : Nat → State → Host.Outcome State Fault Refusal
  | fuel, s =>
    match fetch s with
    | none => .next (endOfSample s)
    | some w =>
      match fuel with
      | 0 => raise (.stepCeilingExceeded s.ip)
      | left + 1 =>
        match executeWord w s with
        | .next t => runLoop left t
        | .fault e => .fault e
        | .refused r => .refused r

/-- `runSample` (R241): one whole sample of the loaded program. -/
def runSample (s : State) : Host.Outcome State Fault Refusal := runLoop maxStepsPerSample (startSample s)

/-- The filler of `placeInstruction`: the word of NOP. -/
def fillerWord : Word := 0x00000011#32

/-- A program whose word at index `ip` is `w`; missing words before it are filled. -/
def placeInstruction : List Word → Nat → Word → List Word
  | [], 0, w => [w]
  | _ :: rest, 0, w => w :: rest
  | [], ip + 1, w => fillerWord :: placeInstruction [] ip w
  | v :: rest, ip + 1, w => v :: placeInstruction rest ip w

/-- The state with `w` in the program store at IP, a sample in flight and the step ceiling not yet reached.
DESIGN CHOICE (assumption 8). -/
def placeFetchWord (w : Word) (s : State) : State :=
  { s with
    program := placeInstruction s.program s.ip w
    phase := .inSample
    steps := if s.steps < maxStepsPerSample then s.steps else 0 }

end Sys2Proof.Machine
end

