-- ==== Sys2Proof/Machine/Step.lean ====
section
/-! DEFINITION. The step of the machine and the placement of an instruction where the step fetches. -/

namespace Sys2Proof.Machine

/-- One step: an iteration of the sample loop, or the host's next command between samples (R249, R455). -/
def step (s : State) : Host.Outcome State Fault Refusal := engineStep s

/-- The state with the opcode-table word `w` stored where the next step fetches its instruction. -/
def State.withFetchWord (s : State) (nbits w : Nat) : State := placeFetchWord (tableWord nbits w) s

end Sys2Proof.Machine
end

