-- ==== Sys2Proof/Safety.lean ====
section
/-! DEFINITION. The terms the claims use: the invariants of the state, the flag combinations a CHO accepts, the
instructions that capture PACC, the state without its diagnostics, and what a safe step is. -/

namespace Sys2Proof.Machine

/-- A step that answers a next state: no error, no refusal. -/
def SafeStep (s : State) : Prop := ∃ t, step s = .next t

/-- The delay memory has its canonical form. -/
def MemoryCanonical (s : State) : Prop := s.mem.wf = true

/-- DP lies in [0, DELAY_SIZE) (R44). -/
def DelayPointerInRange (s : State) : Prop := s.dp < delaySize

/-- Every LFO configuration slot equals its oscillator's parameter (R37). -/
def SlotsAgree (s : State) : Prop :=
  (∀ k, s.reg (sineRateSlot k) = BitVec.ofNat 32 (s.sine k).rate ∧
    s.reg (sineRangeSlot k) = BitVec.ofNat 32 (s.sine k).range) ∧
  (∀ k, s.reg (rampRateSlot k) = BitVec.ofInt 32 (s.ramp k).rate ∧
    s.reg (rampRangeSlot k) = BitVec.ofNat 32 (s.ramp k).range.toNat)

/-- The parameters and the phase of a sine oscillator lie in their ranges (R200). The phase range ends at the binary64 2π
(DEDUCED, assumption 4). -/
def SineOsc.inRange (o : SineOsc) : Prop :=
  o.rate ≤ sineRateMax ∧ o.range ≤ sineRangeMax ∧ 0 ≤ o.angle.units ∧ o.angle.units < Real64.twoPi.units

/-- The counter and the rate of a ramp oscillator lie in their ranges (R205); the amplitude does by its type. -/
def RampOsc.inRange (o : RampOsc) : Prop := o.counter ≤ rampMax ∧ rampRateMin ≤ o.rate ∧ o.rate ≤ rampRateMax

/-- Every oscillator lies in its ranges (R200, R205). -/
def OscillatorsInRange (s : State) : Prop := (∀ k, (s.sine k).inRange) ∧ (∀ k, (s.ramp k).inRange)

/-- Every stored LFO value equals the live value (R212). -/
def StoredLive (s : State) : Prop :=
  (∀ k, (s.sine k).storedSin = (s.sine k).liveSin ∧ (s.sine k).storedCos = (s.sine k).liveCos) ∧
  (∀ k, (s.ramp k).stored = (s.ramp k).live)

/-- A value in the 24-bit range (R31). -/
def Fixed.inData (x : Fixed) : Prop := -8388608 ≤ x.val ∧ x.val ≤ 8388607

/-- With clamping on, ACC, PACC and LR lie in the 24-bit range (R31, R78). -/
def AccumulatorsClamped (s : State) : Prop :=
  s.cfg.clampEnabled = true → s.acc.inData ∧ s.pacc.inData ∧ s.lr.inData

/-- ACC and PACC are declared S8.23 and LR is declared S.23 (R33, R248). -/
def FormatsDeclared (s : State) : Prop :=
  s.acc.ib = 8 ∧ s.acc.fb = 23 ∧ s.pacc.ib = 8 ∧ s.pacc.fb = 23 ∧ s.lr.ib = 0 ∧ s.lr.fb = 23

/-- The program store holds a program that `decodeProgram` returned (R130, R131): no more words than the bound, each of
which decodes and is no terminator. -/
def ProgramLoaded (s : State) : Prop :=
  s.program.length ≤ maxProgramLen ∧ ∀ w ∈ s.program, isTerminator w = false ∧ ∃ i, decodeWord w = .ok i

/-- IP has grown by at least 1 for every instruction of the sample (R255). -/
def StepsBelowIp (s : State) : Prop := s.steps ≤ s.ip

/-- The bound on IP (R34), with the bias of a taken SKP (DEDUCED, assumption 19). -/
def IpBounded (s : State) : Prop := s.ip ≤ maxProgramLen + 63 + s.cfg.skpTargetBias

/-- The flags a CHO instruction accepts with a selector (R405). -/
def choCompatible (n : LfoSel) (f : ChoFlags) : Bool :=
  match n with
  | .sine _ => !f.rptr2 && !f.na
  | .ramp _ => !f.cos

/-- The instructions that capture PACC (R244): every one that writes ACC, except OR. -/
def capturesPacc : Instr → Bool
  | .rda _ _ => true
  | .rmpa _ => true
  | .wra _ _ => true
  | .wrap _ _ => true
  | .rdax _ _ => true
  | .rdfx _ _ => true
  | .ldax => true
  | .wrax _ _ => true
  | .wrhx _ _ => true
  | .wrlx _ _ => true
  | .maxx _ _ => true
  | .absa => true
  | .mulx _ => true
  | .log _ _ => true
  | .exp _ _ => true
  | .sof _ _ => true
  | .and _ => true
  | .clr => true
  | .or _ => false
  | .xor _ => true
  | .not => true
  | .skp _ _ => false
  | .nop => false
  | .wlds _ _ _ => false
  | .wldr _ _ _ => false
  | .jam _ => false
  | .choRda _ _ _ => true
  | .choSof _ _ _ => true
  | .choRdal _ _ => true
  | .choUnknown _ => false

/-- The state with its diagnostics cleared: what a model without diagnostics sees (R252). -/
def eraseDiag (s : State) : State := { s with diag := Diag.clear }

/-- An outcome with the diagnostics of its next state cleared (R252). -/
def eraseDiagOutcome : Host.Outcome State Fault Refusal → Host.Outcome State Fault Refusal
  | .next s => .next (eraseDiag s)
  | .fault e => .fault e
  | .refused r => .refused r

/-- No counter of `d` exceeds its value in `e`, and every flag set in `d` is set in `e` (R253). -/
def Diag.le (d e : Diag) : Prop :=
  d.oobReads ≤ e.oobReads ∧ d.oobWrites ≤ e.oobWrites ∧ d.accOverflows ≤ e.accOverflows ∧
  d.paccOverflows ≤ e.paccOverflows ∧ d.daclOverflows ≤ e.daclOverflows ∧ d.dacrOverflows ≤ e.dacrOverflows ∧
  d.qTruncations ≤ e.qTruncations ∧ d.lfoInvariantClamps ≤ e.lfoInvariantClamps ∧
  (d.lfoInvalidSin0 = true → e.lfoInvalidSin0 = true) ∧ (d.lfoInvalidSin1 = true → e.lfoInvalidSin1 = true) ∧
  (d.lfoInvalidRmp0 = true → e.lfoInvalidRmp0 = true) ∧ (d.lfoInvalidRmp1 = true → e.lfoInvalidRmp1 = true)

/-- `n` samples' ends, one after another: what they leave of DP and RUN (R242). -/
def endSamples : Nat → State → State
  | 0, s => s
  | n + 1, s => endSamples n (endOfSample s)

end Sys2Proof.Machine
end

