-- ==== Sys2Proof/Certificates/Slice0/Obligations.lean ====
section
/-! DEFINITION. The statements for the provers. Results are written in integer arithmetic, apart from the model's own
fixed-point operations; a result given as a record update of `s` is the whole frame: every field it does not name is
unchanged. -/

namespace Sys2Proof.Claims

open Sys2Proof.Machine

/-- The integer an arithmetic primitive leaves for an exact result (R162): saturated to 24 bits with clamping on, wrapped
to 32 bits with it off. -/
def fin (clamp : Bool) (x : Int) : Int := if clamp then min (max x (-8388608)) 8388607 else x.bmod 4294967296

/-- Whether an exact result lies outside the 24-bit range (R161). -/
def outside24 (x : Int) : Bool := decide (x < -8388608 ∨ 8388607 < x)

/-- 1 for true, 0 for false. -/
def one (b : Bool) : Nat := if b then 1 else 0

/-- ACC after an instruction whose last primitive has the exact result `x` (R248). -/
def accOf (clamp : Bool) (x : Int) : Fixed := ⟨BitVec.ofInt 32 (fin clamp x), 8, 23, outside24 x⟩

/-- The number of results outside the 24-bit range (R251). -/
def overs : List Int → Nat
  | [] => 0
  | x :: xs => one (outside24 x) + overs xs

/-- The state after an instruction that captures PACC, whose primitives have the exact results `xs` in order and which
leaves `v` in ACC (R244, R247, R251). -/
def captured (s : State) (xs : List Int) (v : Fixed) : State :=
  { s with
    acc := v
    pacc := s.acc
    ip := s.ip + 1
    diag := { s.diag with
      paccOverflows := s.diag.paccOverflows + one s.acc.ovf
      accOverflows := s.diag.accOverflows + overs xs } }

/-- The effective index of a base address (R74). -/
def tapeIndex (s : State) (a : Int) : Nat := ((min (max a 0) 32767).toNat + s.dp) % 32768

/-- Whether a base address is out of range (R74). -/
def baseBad (a : Int) : Bool := decide (a < 0 ∨ 32768 ≤ a)

/-- The state after a read of base `a` folded into ACC with a coefficient of raw value `k` (R310, R311, R410). -/
def readFold (s : State) (a k : Int) : State :=
  let w := s.mem.read (tapeIndex s a)
  let p := w.toInt * k / 8388608
  let r := s.acc.raw.toInt + fin s.cfg.clampEnabled p
  let t := captured s [p, r] (accOf s.cfg.clampEnabled r)
  { t with
    lr := ⟨w.signExtend 32, 0, 23, false⟩
    diag := { t.diag with oobReads := t.diag.oobReads + one (baseBad a) } }

/-- The state after a write of ACC to base `a`, with memory `m` after it, exact results `xs` and `v` in ACC (R312, R313). -/
def writeFold (s : State) (a : Int) (m : Memory) (xs : List Int) (v : Fixed) : State :=
  let t := captured s xs v
  { t with
    mem := m
    diag := { t.diag with
      oobWrites := t.diag.oobWrites + one (baseBad a)
      qTruncations := t.diag.qTruncations + one (outside24 s.acc.raw.toInt) } }

/-- The memory after one word is written: the written index reads as the low 24 bits of ACC, every other index as
before (R72, R77). -/
def WroteWord (s : State) (a : Int) (m : Memory) : Prop :=
  m.read (tapeIndex s a) = BitVec.ofInt 24 s.acc.raw.toInt ∧ ∀ j, j ≠ tapeIndex s a → m.read j = s.mem.read j

/-- The state after a register write and an ACC result (R334 to R336): the register write of R333 first, then the
capture, the count of the exact results `xs`, and `v` in ACC. -/
def wroteRegister (a : RegAddr) (s : State) (xs : List Int) (v : Fixed) : State :=
  let t := regWrite a s.acc s
  { t with
    acc := v
    pacc := s.acc
    ip := s.ip + 1
    diag := { t.diag with
      paccOverflows := t.diag.paccOverflows + one s.acc.ovf
      accOverflows := t.diag.accOverflows + overs xs } }

/-- The state after the larger of |ACC| and |R * C| is loaded, `r` and `k` the raw values of R and C (R337). -/
def maxFold (s : State) (r k : Int) : State :=
  let cl := s.cfg.clampEnabled
  let a : Int := s.acc.raw.toInt.natAbs
  let p := r * k / 8388608
  let b : Int := (fin cl p).natAbs
  captured s [a, p, b] (if fin cl a < fin cl b then accOf cl b else accOf cl a)

/-- The state after the filter step (ACC - R) * C + R, `r` and `k` the raw values of R and C (R331). -/
def filterFold (s : State) (r k : Int) : State :=
  let cl := s.cfg.clampEnabled
  let d := s.acc.raw.toInt - r
  let p := fin cl d * k / 8388608
  let q := fin cl p + r
  captured s [d, p, q] (accOf cl q)

/-- The state after F * C + D, `x`, `k` and `o` the raw values of F, C and D (R270). -/
def scaleFold (s : State) (x k o : Int) : State :=
  let cl := s.cfg.clampEnabled
  let p := x * k / 8388608
  let r := fin cl p + o
  captured s [p, r] (accOf cl r)

/-- The LFO values and parameters that make every CHO check hold: ranges, and stored values equal to the live ones. The
phase range ends at the binary64 2π of assumption 4. -/
def LfoHealthy (s : State) : Prop := OscillatorsInRange s ∧ StoredLive s

/-- What R401 to R404 give as the value after step 4 for a ramp of counter `c` and amplitude `amp`. -/
def rampChoValue (f : ChoFlags) (c amp : Nat) : Real64 :=
  let v := Real64.ofRatio c 4294967294
  let w := v.add (Real64.ofRatio 1 4)
  let u := if f.rptr2 then (if w.units < (Real64.ofRatio 1 2).units then w else w.sub (Real64.ofRatio 1 2)) else v
  if f.compa then (Real64.ofRatio amp 4096).sub u else u

/-- What R401 and R402 give as the value after step 4 for a sine oscillator. -/
def sineChoValue (f : ChoFlags) (o : SineOsc) : Real64 :=
  let v := (if f.cos then o.angle.cos else o.angle.sin).mul (Real64.ofRatio o.range 32767)
  if f.compa then v.neg else v

/-- 1 - y with COMPC, y without (R404). -/
def inverted (f : ChoFlags) (y : Real64) : Real64 := if f.compc then Real64.one.sub y else y

/-- `k` eighths of a turn, exact multiples of the binary64 2π over 8 (assumption 4). -/
def eighthTurn (k : Nat) : Real64 := ⟨7074237752028440 * 2 ^ 139 * k⟩

/-- The program of an image of words: those before the first terminator (R130). -/
def beforeTerminator (ws : List Word) : List Word :=
  ws.takeWhile fun w => !(w.extractLsb' 0 5 == 0x11#5 && w.extractLsb' 21 6 == 0#6)

/-- A word with a template (R121). -/
def Templated (w : Word) : Prop := (w.extractLsb' 0 5).toNat ≤ 0x14

end Sys2Proof.Claims

section
open Sys2Proof Sys2Proof.Machine Sys2Proof.Claims

/-! ## Encoding and decoding -/

/-- Decoding the canonical word of a well-formed instruction gives the instruction back (R101 to R120). -/
def Obligations.DecodeOfEncode : Prop :=
  ∀ i : Instr, i.wellFormed = true → decodeWord (encode i) = .ok i

/-- What the decoder answers is well formed, so its canonical word decodes to the same instruction (R117, R119). -/
def Obligations.DecodedInstructionsAreCanonical : Prop :=
  ∀ (w : Word) (i : Instr), decodeWord w = .ok i → i.wellFormed = true ∧ decodeWord (encode i) = .ok i

/-- R119: the aliases arise exactly on their zero-argument conditions. -/
def Obligations.AliasesExactlyOnTheirConditions : Prop :=
  ∀ w : Word,
    (decodeWord w = .ok .clr ↔ w.extractLsb' 0 5 = 0x0E#5 ∧ w.extractLsb' 8 24 = 0#24) ∧
    (decodeWord w = .ok .not ↔ w.extractLsb' 0 5 = 0x10#5 ∧ w.extractLsb' 8 24 = 0xFFFFFF#24) ∧
    (decodeWord w = .ok .ldax ↔ w.extractLsb' 0 5 = 0x05#5 ∧ w.extractLsb' 5 6 = 0#6 ∧ w.extractLsb' 16 16 = 0#16) ∧
    (decodeWord w = .ok .absa ↔ w.extractLsb' 0 5 = 0x09#5 ∧ w.extractLsb' 5 6 = 0#6 ∧ w.extractLsb' 16 16 = 0#16) ∧
    (decodeWord w = .ok .nop ↔ w.extractLsb' 0 5 = 0x11#5 ∧ w.extractLsb' 21 11 = 0#11)

/-- R121, R123: the decoder answers an instruction exactly on opcodes 0x00 to 0x14; any other word is `unknownOpcode`. -/
def Obligations.DecodeTotalOnTemplates : Prop :=
  ∀ w : Word, ((∃ i, decodeWord w = .ok i) ↔ Templated w) ∧
    (¬ Templated w → decodeWord w = .error (.unknownOpcode w))

/-- R117: ignored bits do not take part in decoding: of format R bits [15:11], of RMPA [20:5], of MULX [31:11], of format
B [7:5], of SKP [20:5], of WLDR [12:7], of JAM [31:8], 7 and 5, of CHO SOF and CHO RDA 23, of CHO RDAL 23 and [20:5]. -/
def Obligations.IgnoredBitsHaveNoEffect : Prop :=
  ∀ v w : Word, w.extractLsb' 0 5 = v.extractLsb' 0 5 →
    (0x04 ≤ (w.extractLsb' 0 5).toNat → (w.extractLsb' 0 5).toNat ≤ 0x09 →
      w &&& 0xFFFF07FF#32 = v &&& 0xFFFF07FF#32 → decodeWord w = decodeWord v) ∧
    (w.extractLsb' 0 5 = 0x01#5 → w &&& 0xFFE0001F#32 = v &&& 0xFFE0001F#32 → decodeWord w = decodeWord v) ∧
    (w.extractLsb' 0 5 = 0x0A#5 → w &&& 0x000007FF#32 = v &&& 0x000007FF#32 → decodeWord w = decodeWord v) ∧
    (0x0E ≤ (w.extractLsb' 0 5).toNat → (w.extractLsb' 0 5).toNat ≤ 0x10 →
      w &&& 0xFFFFFF1F#32 = v &&& 0xFFFFFF1F#32 → decodeWord w = decodeWord v) ∧
    (w.extractLsb' 0 5 = 0x11#5 → w &&& 0xFFE0001F#32 = v &&& 0xFFE0001F#32 → decodeWord w = decodeWord v) ∧
    (w.extractLsb' 0 5 = 0x12#5 → w.extractLsb' 30 2 ≠ 0#2 → w &&& 0xFFFFE07F#32 = v &&& 0xFFFFE07F#32 →
      decodeWord w = decodeWord v) ∧
    (w.extractLsb' 0 5 = 0x13#5 → w &&& 0x0000005F#32 = v &&& 0x0000005F#32 → decodeWord w = decodeWord v) ∧
    (w.extractLsb' 0 5 = 0x14#5 → w.getLsbD 30 = false → w.getLsbD 31 = false →
      w &&& 0xFF7FFFFF#32 = v &&& 0xFF7FFFFF#32 → decodeWord w = decodeWord v) ∧
    (w.extractLsb' 0 5 = 0x14#5 → w.getLsbD 30 = false → w.getLsbD 31 = true →
      w &&& 0xFF7FFFFF#32 = v &&& 0xFF7FFFFF#32 → decodeWord w = decodeWord v) ∧
    (w.extractLsb' 0 5 = 0x14#5 → w.getLsbD 30 = true → w.getLsbD 31 = true →
      w &&& 0xFF60001F#32 = v &&& 0xFF60001F#32 → decodeWord w = decodeWord v)

/-- A few words written out from the format tables decode to their instructions (R105 to R114). -/
def Obligations.SampleWordsDecode : Prop :=
  decodeTableWord 32 0x20007D00 = some (.rda 1000 256) ∧
  decodeTableWord 32 0xE0000447 = some (.wrhx 0x22 0xE000) ∧
  decodeTableWord 32 0x133319AD = some (.sof 4915 205) ∧
  decodeTableWord 32 0x50400011 = some (.skp ⟨false, true, false, true, false⟩ 2) ∧
  decodeTableWord 32 0x7FF38072 = some (.wldr .rmp1 0xFF9C .r512) ∧
  decodeTableWord 32 0x24407D14 = some (.choRda (.ramp .rmp0) ⟨false, false, true, false, false, true⟩ 1000) ∧
  decodeTableWord 32 0x0000001F = none

/-- R73: an image is big-endian words: byte k of a word holds bits [31-8k:24-8k]. -/
def Obligations.ImageIsBigEndianWords : Prop :=
  ∀ ws : List Word,
    wordsOfImage (ws.flatMap fun w =>
      [w.extractLsb' 24 8, w.extractLsb' 16 8, w.extractLsb' 8 8, w.extractLsb' 0 8]) = some ws

/-- R130, R131: a program is the words before the first terminator, when there are at most 128 and each has a template. -/
def Obligations.ProgramIsWordsBeforeTerminator : Prop :=
  ∀ ws p : List Word, decodeProgram ws = .ok p ↔
    p = beforeTerminator ws ∧ p.length ≤ 128 ∧ ∀ w ∈ p, Templated w

/-- R445: the scan reports the first error it meets: an unknown opcode below index 128, else a program too long. -/
def Obligations.ProgramErrorsInScanOrder : Prop :=
  ∀ (ws : List Word) (e : LoadError), decodeProgram ws = .error e ↔
    (∃ k w, k < 128 ∧ (beforeTerminator ws)[k]? = some w ∧ ¬ Templated w ∧
      (∀ j v, j < k → (beforeTerminator ws)[j]? = some v → Templated v) ∧ e = .unknownOpcode k w) ∨
    (128 < (beforeTerminator ws).length ∧ (∀ j v, j < 128 → (beforeTerminator ws)[j]? = some v → Templated v) ∧
      e = .programTooLong 128)

/-! ## The fixed-point unit -/

/-- R163, R165, R167, R170, R176: each primitive finishes its exact integer result once, keeps the first operand's format
and sets the flag exactly outside the 24-bit range. -/
def Obligations.PrimitivesFinishExactResults : Prop :=
  ∀ (clamp : Bool) (a b : Fixed),
    fpAdd clamp a b = ⟨BitVec.ofInt 32 (fin clamp (a.raw.toInt + b.raw.toInt)), a.ib, a.fb,
      outside24 (a.raw.toInt + b.raw.toInt)⟩ ∧
    fpSub clamp a b = ⟨BitVec.ofInt 32 (fin clamp (a.raw.toInt - b.raw.toInt)), a.ib, a.fb,
      outside24 (a.raw.toInt - b.raw.toInt)⟩ ∧
    fpMult clamp a b = ⟨BitVec.ofInt 32 (fin clamp (a.raw.toInt * b.raw.toInt / 8388608)), a.ib, a.fb,
      outside24 (a.raw.toInt * b.raw.toInt / 8388608)⟩ ∧
    fpAbs clamp a = ⟨BitVec.ofInt 32 (fin clamp (max a.raw.toInt (-a.raw.toInt))), a.ib, a.fb,
      outside24 (max a.raw.toInt (-a.raw.toInt))⟩ ∧
    fpSat clamp a = ⟨BitVec.ofInt 32 (fin clamp a.raw.toInt), a.ib, a.fb, outside24 a.raw.toInt⟩

/-- R175, R166: toQ undoes fromQ for every pattern of a format with i ≤ 8 and f ≤ 23; other formats are refused. -/
def Obligations.QFormatRoundTrip : Prop :=
  ∀ (i f : Nat) (r : BitVec (1 + i + f)),
    (i ≤ 8 → f ≤ 23 → ∃ x, setFromQFormat i f r = some x ∧ x.raw.toInt = r.toInt * 2 ^ (23 - f) ∧
      toQFormat x i f = some (r, true)) ∧
    (8 < i ∨ 23 < f → setFromQFormat i f r = none ∧ ∀ x, toQFormat x i f = none)

/-- R171: for a value in the 24-bit range the bitwise primitives are the 24-bit operations, sign-extended, and the result
stays in range. -/
def Obligations.BitwiseIs24BitInRange : Prop :=
  ∀ (x : BitVec 24) (a : Fixed) (m : BitVec 24), a.raw = x.signExtend 32 →
    (fpAnd a m).raw = (x &&& m).signExtend 32 ∧ (fpOr a m).raw = (x ||| m).signExtend 32 ∧
    (fpXor a m).raw = (x ^^^ m).signExtend 32 ∧
    (fpAnd a m).ovf = false ∧ (fpOr a m).ovf = false ∧ (fpXor a m).ovf = false

/-! ## Scale/offset and bitwise families -/

/-- R272: SOF loads C * ACC + D, the product finished before D is added. -/
def Obligations.SofResult : Prop :=
  ∀ (c : BitVec 16) (d : BitVec 11) (s : State),
    exec (.sof c d) s = .next (scaleFold s s.acc.raw.toInt (c.toInt * 512) (d.toInt * 8192))

/-- R274, R276: LOG loads C * L + D with the S4.11 and S4.6 operands, L the value of `log2Fn` at |ACC|; EXP loads C * E + D
with the S1.14 and S.10 operands, E the value of `exp2Fn` at ACC.
The functions log2Fn and exp2Fn round as assumption 2 says. -/
def Obligations.LogExpResults : Prop :=
  ∀ (c : BitVec 16) (d : BitVec 11) (s : State),
    exec (.log c d) s = .next (scaleFold s (log2Fn s.acc.raw.toInt.natAbs) (c.toInt * 4096) (d.toInt * 131072)) ∧
    exec (.exp c d) s = .next (scaleFold s (exp2Fn s.acc.raw.toInt) (c.toInt * 512) (d.toInt * 8192))

/-- R274: the LOG intermediate is the representable minimum below 2^-16, exact at powers of two, truncated toward zero at
three times a power of two, never below the minimum, never positive up to 2^23, and keeps the order of |ACC|. R276: the
EXP intermediate is 2^23 - 1 on the non-negative range, exact at multiples of 1/16, the truncated root at odd multiples of
1/32, between 0 and 2^23 - 1 on the negative range, at least 128 from -1.0 up, and keeps the order of ACC. The values
between these points rest on the correctly rounded functions of assumption 2. -/
def Obligations.LogExpIntermediates : Prop :=
  (∀ r : Nat, r < 128 → log2Fn r = -8388608) ∧
  (∀ k : Nat, 7 ≤ k → k ≤ 23 → log2Fn (2 ^ k) = ((k : Int) - 23) * 524288) ∧
  (∀ k : Nat, 6 ≤ k → k ≤ 21 → log2Fn (3 * 2 ^ k) = ((k : Int) - 22) * 524288 + 306689) ∧
  (∀ r : Nat, -8388608 ≤ log2Fn r) ∧
  (∀ r : Nat, r ≤ 8388608 → log2Fn r ≤ 0) ∧
  (∀ r q : Nat, r ≤ q → log2Fn r ≤ log2Fn q) ∧
  (∀ a : Int, 0 ≤ a → exp2Fn a = 8388607) ∧
  (∀ k : Nat, 1 ≤ k → k ≤ 23 → exp2Fn (-(k : Int) * 524288) = 2 ^ (23 - k)) ∧
  (∀ k : Nat, k ≤ 22 → 0 ≤ exp2Fn (-(k : Int) * 524288 - 262144) ∧
    exp2Fn (-(k : Int) * 524288 - 262144) ^ 2 ≤ 2 ^ (45 - 2 * k) ∧
    2 ^ (45 - 2 * k) < (exp2Fn (-(k : Int) * 524288 - 262144) + 1) ^ 2) ∧
  (∀ a : Int, a < 0 → 0 ≤ exp2Fn a ∧ exp2Fn a ≤ 8388607) ∧
  (∀ a : Int, -8388608 ≤ a → a < 0 → 128 ≤ exp2Fn a) ∧
  (∀ a b : Int, a ≤ b → exp2Fn a ≤ exp2Fn b)

/-- R290, R291, R293, R294: AND, CLR, XOR and NOT capture PACC and work on the raw pattern without clamping. -/
def Obligations.CapturingBitwiseResults : Prop :=
  ∀ (m : BitVec 24) (s : State),
    exec (.and m) s = .next (captured s [] ⟨s.acc.raw &&& m.signExtend 32, 8, 23,
      outside24 (s.acc.raw &&& m.signExtend 32).toInt⟩) ∧
    exec .clr s = .next (captured s [] ⟨0, 8, 23, false⟩) ∧
    exec (.xor m) s = .next (captured s [] ⟨s.acc.raw ^^^ m.signExtend 32, 8, 23,
      outside24 (s.acc.raw ^^^ m.signExtend 32).toInt⟩) ∧
    exec .not s = .next (captured s [] ⟨BitVec.ofInt 32 (-s.acc.raw.toInt - 1), 8, 23, outside24 (-s.acc.raw.toInt - 1)⟩)

/-- R292: OR writes ACC and leaves PACC and every diagnostic unchanged. -/
def Obligations.OrKeepsPacc : Prop :=
  ∀ (m : BitVec 24) (s : State),
    exec (.or m) s = .next { s with
      acc := ⟨s.acc.raw ||| m.signExtend 32, 8, 23, outside24 (s.acc.raw ||| m.signExtend 32).toInt⟩, ip := s.ip + 1 }

/-! ## Delay memory -/

/-- R310, R311: RDA and RMPA read one word into LR and fold LR * C into ACC; memory is unchanged. -/
def Obligations.DelayReadResults : Prop :=
  ∀ (a : DelayAddr) (c : BitVec 11) (s : State),
    exec (.rda a c) s = .next (readFold s a.toNat (c.toInt * 16384)) ∧
    exec (.rmpa c) s = .next (readFold s ((s.reg 0x18#6).toInt / 256) (c.toInt * 16384))

/-- R312, R313: WRA and WRAP store ACC's low 24 bits in one word; then ACC is ACC * C, for WRAP plus LR. LR is unchanged. -/
def Obligations.DelayWriteResults : Prop :=
  ∀ (a : DelayAddr) (c : BitVec 11) (s : State), s.mem.wf = true →
    let p := s.acc.raw.toInt * (c.toInt * 16384) / 8388608
    let r := fin s.cfg.clampEnabled p + s.lr.raw.toInt
    ∃ m, WroteWord s a.toNat m ∧
      exec (.wra a c) s = .next (writeFold s a.toNat m [p] (accOf s.cfg.clampEnabled p)) ∧
      exec (.wrap a c) s = .next (writeFold s a.toNat m [p, r] (accOf s.cfg.clampEnabled r))

/-- R88: a tap at base A + k reads what a delay write at base A stored k samples earlier: the two bases have one
effective index, and k ends of sample after the write, with no other write between, the tap's word and the LR of a delay
read there are the low 24 bits of the ACC that was written. -/
def Obligations.DelayLineProperty : Prop :=
  ∀ (s : State) (a k : Nat), DelayPointerInRange s → a + k < 32768 →
    delayIndex (endSamples k s) ((a + k : Nat) : Int) = delayIndex s (a : Int) ∧
    (s.mem.wf = true →
      let t := endSamples k (s.delayWrite (a : Int))
      let w := BitVec.ofInt 24 s.acc.raw.toInt
      t.mem.read (delayIndex t ((a + k : Nat) : Int)) = w ∧
      (t.delayRead ((a + k : Nat) : Int)).lr = ⟨w.signExtend 32, 0, 23, false⟩)

/-! ## Registers -/

/-- R330, R339: RDAX adds REG * C to ACC, and MULX multiplies ACC by REG. -/
def Obligations.RdaxMulxResults : Prop :=
  ∀ (a : RegAddr) (c : BitVec 16) (s : State),
    let cl := s.cfg.clampEnabled
    let p := (s.reg a).toInt * (c.toInt * 512) / 8388608
    let r := s.acc.raw.toInt + fin cl p
    let q := s.acc.raw.toInt * (s.reg a).toInt / 8388608
    exec (.rdax a c) s = .next (captured s [p, r] (accOf cl r)) ∧
    exec (.mulx a) s = .next (captured s [q] (accOf cl q))

/-- R331, R332: RDFX loads (ACC - REG) * C + REG, and LDAX is RDFX with A = 0 and C = 0. -/
def Obligations.RdfxLdaxResults : Prop :=
  ∀ (a : RegAddr) (c : BitVec 16) (s : State),
    exec (.rdfx a c) s = .next (filterFold s (s.reg a).toInt (c.toInt * 512)) ∧
    exec .ldax s = .next (filterFold s (s.reg 0#6).toInt 0)

/-- R337, R338: MAXX loads the larger of |ACC| and |REG * C|, and ABSA is MAXX with A = 0 and C = 0. -/
def Obligations.MaxxAbsaResults : Prop :=
  ∀ (a : RegAddr) (c : BitVec 16) (s : State),
    exec (.maxx a c) s = .next (maxFold s (s.reg a).toInt (c.toInt * 512)) ∧
    exec .absa s = .next (maxFold s (s.reg 0#6).toInt 0)

/-- R334 to R336: WRAX, WRHX and WRLX write the old ACC to the register, then load ACC * C, ACC * C + P and
(P - ACC) * C + P, with P the PACC from before the capture. -/
def Obligations.RegisterWritingResults : Prop :=
  ∀ (a : RegAddr) (c : BitVec 16) (s : State),
    let cl := s.cfg.clampEnabled
    let x := s.acc.raw.toInt
    let y := s.pacc.raw.toInt
    let k := c.toInt * 512
    let p := x * k / 8388608
    let h := fin cl p + y
    let d := y - x
    let l := fin cl d * k / 8388608
    let r := fin cl l + y
    exec (.wrax a c) s = .next (wroteRegister a s [p] (accOf cl p)) ∧
    exec (.wrhx a c) s = .next (wroteRegister a s [p, h] (accOf cl h)) ∧
    exec (.wrlx a c) s = .next (wroteRegister a s [d, l, r] (accOf cl r))

/-- R333, the slots without an oscillator: the raw pattern is stored in that slot alone, and an out-of-range value
written to DACL or DACR is counted. -/
def Obligations.PlainRegisterWrite : Prop :=
  ∀ (a : RegAddr) (v : Fixed) (s : State), 8 ≤ a.toNat →
    ∃ r, regWrite a v s = { s with
        regs := r
        diag := { s.diag with
          daclOverflows := s.diag.daclOverflows + one (v.ovf && a == 0x16#6)
          dacrOverflows := s.diag.dacrOverflows + one (v.ovf && a == 0x17#6) } } ∧
      (regWrite a v s).reg a = v.raw ∧ ∀ b, b ≠ a → (regWrite a v s).reg b = s.reg b

/-- R333, R203, R204: a write to a sine slot clamps the shifted value, stores it in the slot and in that oscillator,
flags it when it was out of range, and changes no other slot. R202, R204, R212: an amplitude write refreshes the stored
sine and cosine values to the live ones, whose sin and cos are those of assumption 2 and whose rounded quotient and product
are those of assumption 17 (the model's, not the spec's). -/
def Obligations.SineRegisterWrite : Prop :=
  ∀ (v : Fixed) (s : State),
    let f := v.raw.toInt / 16384
    let g := v.raw.toInt / 256
    let kf := min (max f 0) 511
    let ka := min (max g 0) 32767
    (∃ r, regWrite 0x00#6 v s = { s with
        regs := r
        sin0 := { s.sin0 with rate := kf.toNat }
        diag := { s.diag with lfoInvalidSin0 := s.diag.lfoInvalidSin0 || decide (f < 0 ∨ 511 < f) } }) ∧
    (∃ r, regWrite 0x02#6 v s = { s with
        regs := r
        sin1 := { s.sin1 with rate := kf.toNat }
        diag := { s.diag with lfoInvalidSin1 := s.diag.lfoInvalidSin1 || decide (f < 0 ∨ 511 < f) } }) ∧
    (∃ r, regWrite 0x01#6 v s = { s with
        regs := r
        sin0 := { s.sin0 with range := ka.toNat, storedSin := s.sin0.angle.sin.mul (Real64.ofRatio ka 32767),
                              storedCos := s.sin0.angle.cos.mul (Real64.ofRatio ka 32767) }
        diag := { s.diag with lfoInvalidSin0 := s.diag.lfoInvalidSin0 || decide (g < 0 ∨ 32767 < g) } }) ∧
    (∃ r, regWrite 0x03#6 v s = { s with
        regs := r
        sin1 := { s.sin1 with range := ka.toNat, storedSin := s.sin1.angle.sin.mul (Real64.ofRatio ka 32767),
                              storedCos := s.sin1.angle.cos.mul (Real64.ofRatio ka 32767) }
        diag := { s.diag with lfoInvalidSin1 := s.diag.lfoInvalidSin1 || decide (g < 0 ∨ 32767 < g) } }) ∧
    (∀ a : RegAddr, a = 0x00#6 ∨ a = 0x02#6 → (regWrite a v s).reg a = BitVec.ofInt 32 kf) ∧
    (∀ a : RegAddr, a = 0x01#6 ∨ a = 0x03#6 → (regWrite a v s).reg a = BitVec.ofInt 32 ka) ∧
    (∀ a b : RegAddr, a.toNat < 4 → b ≠ a → (regWrite a v s).reg b = s.reg b)

/-- R333, R208, R209: a write to a ramp slot clamps the shifted rate, or rounds the shifted amplitude down to a step, and
stores it in the slot and in that oscillator; a changed value is flagged and no other slot changes. -/
def Obligations.RampRegisterWrite : Prop :=
  ∀ (v : Fixed) (s : State),
    let f := v.raw.toInt / 256
    let g := v.raw.toInt / 2048
    let kr := min (max f (-16384)) 32767
    (∃ r, regWrite 0x04#6 v s = { s with
        regs := r
        rmp0 := { s.rmp0 with rate := kr }
        diag := { s.diag with lfoInvalidRmp0 := s.diag.lfoInvalidRmp0 || decide (f < -16384 ∨ 32767 < f) } }) ∧
    (∃ r, regWrite 0x06#6 v s = { s with
        regs := r
        rmp1 := { s.rmp1 with rate := kr }
        diag := { s.diag with lfoInvalidRmp1 := s.diag.lfoInvalidRmp1 || decide (f < -16384 ∨ 32767 < f) } }) ∧
    (∃ step : RampRange,
      (g < 512 → step = .r512) ∧
      (512 ≤ g → (step.toNat : Int) ≤ g ∧ ∀ other : RampRange, (other.toNat : Int) ≤ g → other.toNat ≤ step.toNat) ∧
      (∃ r, regWrite 0x05#6 v s = { s with
        regs := r
        rmp0 := { s.rmp0 with range := step }
        diag := { s.diag with lfoInvalidRmp0 := s.diag.lfoInvalidRmp0 || decide (g ≠ step.toNat) } }) ∧
      (∃ r, regWrite 0x07#6 v s = { s with
        regs := r
        rmp1 := { s.rmp1 with range := step }
        diag := { s.diag with lfoInvalidRmp1 := s.diag.lfoInvalidRmp1 || decide (g ≠ step.toNat) } }) ∧
      (∀ a : RegAddr, a = 0x05#6 ∨ a = 0x07#6 → (regWrite a v s).reg a = BitVec.ofNat 32 step.toNat)) ∧
    (∀ a : RegAddr, a = 0x04#6 ∨ a = 0x06#6 → (regWrite a v s).reg a = BitVec.ofInt 32 kr) ∧
    (∀ a b : RegAddr, 4 ≤ a.toNat → a.toNat < 8 → b ≠ a → (regWrite a v s).reg b = s.reg b)

/-! ## LFO loads, oscillators and skips -/

/-- R360: WLDS sets the rate and the amplitude of its sine oscillator and their two slots, keeps the phase, refreshes the
stored values and flags nothing. R202, R212: the refreshed values are the live ones, whose sin and cos are those of
assumption 2 and whose rounded quotient and product are those of assumption 17 (the model's, not the spec's). -/
def Obligations.WldsResult : Prop :=
  ∀ (f : BitVec 9) (a : BitVec 15) (s : State),
    exec (.wlds .sin0 f a) s = .next { s with
      ip := s.ip + 1
      regs := (s.regs.set 0 (f.setWidth 32)).set 1 (a.setWidth 32)
      sin0 := ⟨s.sin0.angle, f.toNat, a.toNat, s.sin0.angle.sin.mul (Real64.ofRatio a.toNat 32767),
        s.sin0.angle.cos.mul (Real64.ofRatio a.toNat 32767)⟩ } ∧
    exec (.wlds .sin1 f a) s = .next { s with
      ip := s.ip + 1
      regs := (s.regs.set 2 (f.setWidth 32)).set 3 (a.setWidth 32)
      sin1 := ⟨s.sin1.angle, f.toNat, a.toNat, s.sin1.angle.sin.mul (Real64.ofRatio a.toNat 32767),
        s.sin1.angle.cos.mul (Real64.ofRatio a.toNat 32767)⟩ }

/-- R361: WLDR sets the clamped signed rate and the amplitude of its ramp and their two slots, keeps the counter and the
stored value, and flags a rate below -16384. -/
def Obligations.WldrResult : Prop :=
  ∀ (f : BitVec 16) (a : RampRange) (s : State),
    exec (.wldr .rmp0 f a) s = .next { s with
      ip := s.ip + 1
      regs := (s.regs.set 4 (BitVec.ofInt 32 (max f.toInt (-16384)))).set 5 (BitVec.ofNat 32 a.toNat)
      rmp0 := ⟨s.rmp0.counter, max f.toInt (-16384), a, s.rmp0.stored⟩
      diag := { s.diag with lfoInvalidRmp0 := s.diag.lfoInvalidRmp0 || decide (f.toInt < -16384) } } ∧
    exec (.wldr .rmp1 f a) s = .next { s with
      ip := s.ip + 1
      regs := (s.regs.set 6 (BitVec.ofInt 32 (max f.toInt (-16384)))).set 7 (BitVec.ofNat 32 a.toNat)
      rmp1 := ⟨s.rmp1.counter, max f.toInt (-16384), a, s.rmp1.stored⟩
      diag := { s.diag with lfoInvalidRmp1 := s.diag.lfoInvalidRmp1 || decide (f.toInt < -16384) } }

/-- R362, R210: JAM zeroes the counter and the stored value of its ramp and changes nothing else but IP. -/
def Obligations.JamResult : Prop :=
  ∀ s : State,
    exec (.jam .rmp0) s = .next { s with ip := s.ip + 1, rmp0 := ⟨0, s.rmp0.rate, s.rmp0.range, Real64.zero⟩ } ∧
    exec (.jam .rmp1) s = .next { s with ip := s.ip + 1, rmp1 := ⟨0, s.rmp1.rate, s.rmp1.range, Real64.zero⟩ }

/-- R206: a ramp advance subtracts a quarter of the rate, rounded down, modulo 2^31, and keeps rate and amplitude.
R207, R212: the stored value is refreshed to the counter over 2^32 - 2, a quotient rounded once as assumption 17 says (the
model's, not the spec's). -/
def Obligations.RampAdvanceIsModular : Prop :=
  ∀ o : RampOsc,
    ((o.advance.counter : Int) - ((o.counter : Int) - o.rate / 4)) % 2147483648 = 0 ∧ o.advance.counter ≤ 2147483647 ∧
    o.advance.rate = o.rate ∧ o.advance.range = o.range ∧
    o.advance.stored = Real64.ofRatio o.advance.counter 4294967294

/-- R201: a sine advance adds Kf / 2^17 in binary64, takes the sum back below 2π, and keeps rate and amplitude.
R202, R212: the stored values are refreshed. The constant 2π, the sine and cosine and the rounding are the model's
(assumptions 4, 2 and 17). -/
def Obligations.SineAdvanceStaysInCircle : Prop :=
  ∀ o : SineOsc, o.inRange →
    let sum := o.angle.add (Real64.ofRatio o.rate 131072)
    (sum.units < Real64.twoPi.units → o.advance.angle = sum) ∧
    (Real64.twoPi.units ≤ sum.units → o.advance.angle = sum.sub Real64.twoPi) ∧
    o.advance.inRange ∧ o.advance.rate = o.rate ∧ o.advance.range = o.range ∧
    o.advance.storedSin = o.advance.angle.sin.mul (Real64.ofRatio o.range 32767) ∧
    o.advance.storedCos = o.advance.angle.cos.mul (Real64.ofRatio o.range 32767)

/-- R380, R381, R382: SKP jumps when any selected condition holds, NOP never does, and neither changes anything but IP. -/
def Obligations.SkipResults : Prop :=
  ∀ (f : SkpFlags) (n : BitVec 6) (s : State),
    let x := s.acc.raw.toInt
    let y := s.pacc.raw.toInt
    exec (.skp f n) s = .next { s with
      ip := if (f.run = true ∧ s.run = false) ∨ (f.zrc = true ∧ x.sign ≠ y.sign) ∨ (f.zro = true ∧ x = 0) ∨
          (f.gez = true ∧ 0 ≤ x) ∨ (f.neg = true ∧ x < 0)
        then s.ip + n.toNat + s.cfg.skpTargetBias else s.ip + 1 } ∧
    exec .nop s = .next { s with ip := s.ip + 1 }

/-! ## Chorus -/

/-- R410: with flags its selector accepts, CHO RDA completes: it reads at A + offset and folds LR * c into ACC. -/
def Obligations.ChoRdaResult : Prop :=
  ∀ (n : LfoSel) (f : ChoFlags) (a : DelayAddr) (s : State), choCompatible n f = true → LfoHealthy s →
    ∃ r, choEval s n f = .ok r ∧
      exec (.choRda n f a) s = .next (readFold s (a.toNat + r.offset) (Int.tdiv (8388608 * r.coef.units) realOne))

/-- R411, R412: with flags their selector accepts, CHO SOF completes with ACC * c + D and CHO RDAL with c saturated. -/
def Obligations.ChoSofRdalResults : Prop :=
  ∀ (n : LfoSel) (f : ChoFlags) (d : BitVec 16) (s : State), choCompatible n f = true → LfoHealthy s →
    ∃ r, choEval s n f = .ok r ∧
      let k := Int.tdiv (8388608 * r.coef.units) realOne
      exec (.choSof n f d) s = .next (scaleFold s s.acc.raw.toInt k (d.toInt * 256)) ∧
      exec (.choRdal n f) s = .next (captured s [k] (accOf s.cfg.clampEnabled k))

/-- R401 to R404: the value, offset and coefficient of a ramp selector, no check clamping anything.
Each operation rounds once in binary64 (assumption 17). -/
def Obligations.ChoRampValues : Prop :=
  ∀ (k : RampSel) (f : ChoFlags) (s : State), f.cos = false → LfoHealthy s →
    let o := s.ramp k
    let v := rampChoValue f o.counter o.range.toNat
    let scale := Real64.ofInt (2 * o.range.toNat)
    let x := Real64.one.sub ((((Real64.ofInt 4).mul v).sub Real64.one).abs)
    choEval s (.ramp k) f = .ok (
      if f.na then ⟨v, 0, inverted f (if x.units < 0 then Real64.zero else x), 0⟩
      else ⟨v, (v.mul scale).floor, inverted f (match s.cfg.choCoefMode with
        | .lfoValue => v
        | .fraction => (v.mul scale).sub (Real64.ofInt (v.mul scale).floor)), 0⟩)

/-- R202, R401 to R404: the value, offset and coefficient of a sine selector, no check clamping anything, and the sine and
cosine it rests on: sin 0 is 0 and cos 0 is 1, at every quarter of a turn both are within 2^-50 of the true value 0, 1 or
-1, and at the odd eighths both have the true sign and a square within 2^-49 of one half. Each operation rounds once in binary64
(assumption 17); sin and cos are the correctly rounded ones (assumption 2) and the turn is the binary64 2π (assumption 4). -/
def Obligations.ChoSineValues : Prop :=
  Real64.sin ⟨0⟩ = ⟨0⟩ ∧ Real64.cos ⟨0⟩ = Real64.one ∧
  (∀ k : Nat, k ≤ 8 →
    let y := (Real64.sin (eighthTurn k)).units
    let x := (Real64.cos (eighthTurn k)).units
    (k % 4 = 0 → |y| ≤ 2 ^ 142 ∧ |x - (if k = 4 then -(realOne : Int) else realOne)| ≤ 2 ^ 142) ∧
    (k % 4 = 2 → |x| ≤ 2 ^ 142 ∧ |y - (if k = 6 then -(realOne : Int) else realOne)| ≤ 2 ^ 142) ∧
    (k % 2 = 1 → (0 < y ↔ k < 4) ∧ (0 < x ↔ k < 2 ∨ 6 < k) ∧ |2 * y ^ 2 - (realOne : Int) ^ 2| ≤ 2 ^ 336 ∧
      |2 * x ^ 2 - (realOne : Int) ^ 2| ≤ 2 ^ 336)) ∧
  ∀ (k : SineSel) (f : ChoFlags) (s : State), f.rptr2 = false → f.na = false → LfoHealthy s →
    let v := sineChoValue f (s.sine k)
    let p := v.mul (Real64.ofInt 32767)
    choEval s (.sine k) f = .ok ⟨v, p.floor, inverted f (match s.cfg.choCoefMode with
      | .lfoValue => v
      | .fraction => p.sub (Real64.ofInt p.floor)), 0⟩

/-- R403: the delay offset of a sine lies in [-32767, 32767], and that of a ramp without COMPA in [0, amplitude]. -/
def Obligations.ChoOffsetBounds : Prop :=
  ∀ (f : ChoFlags) (s : State) (r : ChoResult), LfoHealthy s →
    (∀ k, choEval s (.sine k) f = .ok r → -32767 ≤ r.offset ∧ r.offset ≤ 32767) ∧
    (∀ k, f.compa = false → choEval s (.ramp k) f = .ok r → 0 ≤ r.offset ∧ r.offset ≤ (s.ramp k).range.toNat)

/-- R405: COS on a ramp, RPTR2 on a sine and NA on a sine make the CHO instructions fail, in that order of report. -/
def Obligations.IncompatibleFlagsFail : Prop :=
  ∀ (f : ChoFlags) (x : BitVec 16) (s : State),
    (∀ k, f.cos = true →
      exec (.choRda (.ramp k) f x) s = .fault (.incompatibleFlag .cos (.ramp k)) ∧
      exec (.choSof (.ramp k) f x) s = .fault (.incompatibleFlag .cos (.ramp k)) ∧
      exec (.choRdal (.ramp k) f) s = .fault (.incompatibleFlag .cos (.ramp k))) ∧
    (∀ k, LfoHealthy s → f.rptr2 = true →
      exec (.choRda (.sine k) f x) s = .fault (.incompatibleFlag .rptr2 (.sine k)) ∧
      exec (.choSof (.sine k) f x) s = .fault (.incompatibleFlag .rptr2 (.sine k)) ∧
      exec (.choRdal (.sine k) f) s = .fault (.incompatibleFlag .rptr2 (.sine k))) ∧
    (∀ k, LfoHealthy s → f.rptr2 = false → f.na = true →
      exec (.choRda (.sine k) f x) s = .fault (.incompatibleFlag .na (.sine k)) ∧
      exec (.choSof (.sine k) f x) s = .fault (.incompatibleFlag .na (.sine k)) ∧
      exec (.choRdal (.sine k) f) s = .fault (.incompatibleFlag .na (.sine k)))

/-- R413: CHO_UNKNOWN always raises `UnknownInstruction` with its word. -/
def Obligations.UnknownSubcommandFails : Prop :=
  ∀ (w : Word) (s : State), exec (.choUnknown w) s = .fault (.unknownInstruction w)

/-! ## Rules over every instruction -/

/-- R244: PACC after an instruction is the ACC it started with if the instruction captures, and is unchanged if not. -/
def Obligations.PaccDiscipline : Prop :=
  ∀ (i : Instr) (s t : State), exec i s = .next t → t.pacc = if capturesPacc i then s.acc else s.pacc

/-- R44, R86, R213, R242, R470: no instruction writes the program store, the configuration, DP, RUN, a sine phase or the
host's commands, and only JAM changes a ramp counter. -/
def Obligations.InstructionsLeaveTheRest : Prop :=
  ∀ (i : Instr) (s t : State), exec i s = .next t →
    t.program = s.program ∧ t.cfg = s.cfg ∧ t.dp = s.dp ∧ t.run = s.run ∧ t.host = s.host ∧ t.phase = s.phase ∧
    t.steps = s.steps ∧ t.sin0.angle = s.sin0.angle ∧ t.sin1.angle = s.sin1.angle ∧
    (i ≠ .jam .rmp0 → t.rmp0.counter = s.rmp0.counter) ∧ (i ≠ .jam .rmp1 → t.rmp1.counter = s.rmp1.counter)

/-- R441: only the chorus instructions raise an error, and no instruction is refused. -/
def Obligations.OnlyChorusFails : Prop :=
  ∀ (i : Instr) (s : State),
    (∀ e, exec i s = .fault e → (∃ n f a, i = .choRda n f a) ∨ (∃ n f d, i = .choSof n f d) ∨ (∃ n f, i = .choRdal n f) ∨
      ∃ w, i = .choUnknown w) ∧
    ∀ r, exec i s ≠ .refused r

/-- R252: the diagnostics change nothing else: two states that differ only in them have outcomes that differ only in
them, for every step of the machine. -/
def Obligations.DiagnosticsHaveNoEffect : Prop :=
  ∀ s u : State, eraseDiag s = eraseDiag u → eraseDiagOutcome (step s) = eraseDiagOutcome (step u)

/-- R253: no instruction lowers a diagnostic counter or clears a flag. -/
def Obligations.DiagnosticsOnlyGrow : Prop :=
  ∀ (i : Instr) (s t : State), exec i s = .next t → s.diag.le t.diag

/-! ## The engine and the host -/

/-- R241, R245: inside a sample with a word to fetch, below the step ceiling, a step runs the instruction the word's bytes
decode to, and counts it. R255: at or above the ceiling it answers `stepCeilingExceeded` with the IP of that word. The
program store holds words that are decoded at the fetch, where R240 fetches a decoded Operation: that is the model's choice
(assumption 6). The step count is the model's field for the loop's local counter (assumption 12). -/
def Obligations.StepRunsDecodedInstruction : Prop :=
  ∀ (s : State) (w : Word), s.phase = .inSample → s.program[s.ip]? = some w →
    (s.steps < 128 → ∀ i : Instr, decodeBytes (bytesOfWord w) = .ok (i, []) →
      step s = (match exec i s with
        | .next t => .next { t with steps := t.steps + 1 }
        | .fault e => .fault e
        | .refused r => .refused r)) ∧
    (128 ≤ s.steps → step s = .fault (.stepCeilingExceeded s.ip))

/-- R242, R249: at or beyond the program's end a step ends the sample: RUN becomes false, DP falls by one modulo 32768, IP
is 0 and the host acts next; nothing else changes.
The fields steps and phase are the model's (assumption 12). -/
def Obligations.SampleEnds : Prop :=
  ∀ s : State, s.phase = .inSample → s.program.length ≤ s.ip → s.dp < 32768 →
    step s = .next { s with
      run := false, dp := if s.dp = 0 then 32767 else s.dp - 1, ip := 0, steps := 0, phase := .betweenSamples }

/-- R44: after exactly 32768 ends of sample DP is back where it was, and after no smaller number but 0. -/
def Obligations.DelayPointerReturns : Prop :=
  ∀ s : State, DelayPointerInRange s →
    (endSamples 32768 s).dp = s.dp ∧ ∀ k : Nat, 0 < k → k < 32768 → (endSamples k s).dp ≠ s.dp

/-- R476: a pending frame writes the five input slots and no other, advances each oscillator once and starts the sample at
IP 0; nothing else changes.
The queue of host commands is the model's (assumption 7). -/
def Obligations.HostFrameStep : Prop :=
  ∀ (s : State) (f : InputFrame) (rest : List HostCommand), s.phase = .betweenSamples → s.host = .frame f :: rest →
    ∃ t, step s = .next t ∧
      t = { s with
        host := rest, phase := .inSample, ip := 0, steps := 0, regs := t.regs
        sin0 := s.sin0.advance, sin1 := s.sin1.advance, rmp0 := s.rmp0.advance, rmp1 := s.rmp1.advance } ∧
      t.reg 0x14#6 = f.adcl ∧ t.reg 0x15#6 = f.adcr ∧ t.reg 0x10#6 = f.pot0 ∧ t.reg 0x11#6 = f.pot1 ∧
      t.reg 0x12#6 = f.pot2 ∧
      ∀ a : RegAddr, a ≠ 0x10#6 → a ≠ 0x11#6 → a ≠ 0x12#6 → a ≠ 0x14#6 → a ≠ 0x15#6 → t.reg a = s.reg a

/-- R470: a load that decodes creates a fresh state with the program; one that does not creates none and answers its
error.
The configuration and the remaining host commands stay, which is the model's choice (assumption 14). -/
def Obligations.LoadStep : Prop :=
  ∀ (s : State) (ws : List Word) (rest : List HostCommand), s.phase = .betweenSamples →
    s.host = .load (ws.flatMap bytesOfWord) :: rest →
    (∀ p, decodeProgram ws = .ok p →
      step s = .next { State.reset with cfg := s.cfg, program := p, host := rest }) ∧
    (∀ k w, decodeProgram ws = .error (.unknownOpcode k w) → step s = .fault (.unknownOpcode k w)) ∧
    (∀ n, decodeProgram ws = .error (.programTooLong n) → step s = .fault (.programTooLong n))

/-- R253, R457: `resetDiagnostics` clears the counters and flags and nothing else; with no host command pending the core
does nothing. The queue of host commands is the model's (assumption 7). -/
def Obligations.HostResetAndIdle : Prop :=
  ∀ s : State, s.phase = .betweenSamples →
    (∀ rest, s.host = .resetDiagnostics :: rest →
      step s = .next { s with host := rest, diag := ⟨0, 0, 0, 0, 0, 0, 0, false, false, false, false, 0⟩ }) ∧
    (s.host = [] → step s = .next s)

/-- R249: stepping from a sample's start until the host acts next gives what one `runSample` gives, but for IP; an error of
`runSample` is the error the steps end in.
The step that ends a sample is R249's, with the model's fields phase and steps (assumption 12). -/
def Obligations.StepsRefineRunSample : Prop :=
  ∀ s : State,
    (∀ t, runSample s = .next t → ∃ k ≤ maxStepsPerSample + 1,
      Sys2Proof.core.run k (startSample s) = .next { t with ip := 0, steps := 0, phase := .betweenSamples }) ∧
    (∀ e, runSample s = .fault e → ∃ k ≤ maxStepsPerSample + 1, Sys2Proof.core.run k (startSample s) = .fault e)

/-- R255: from a state whose program was decoded and whose IP is not below the steps taken, a step keeps that and never
meets the step ceiling. -/
def Obligations.StepCeilingNeverFires : Prop :=
  ∀ s : State, ProgramLoaded s → StepsBelowIp s →
    (∀ n, step s ≠ .fault (.stepCeilingExceeded n)) ∧
    ∀ t, step s = .next t → ProgramLoaded t ∧ StepsBelowIp t

/-! ## Invariants and reset -/

/-- R52: the values of the reset table. -/
def Obligations.ResetValues : Prop :=
  State.reset.ip = 0 ∧ State.reset.run = true ∧ State.reset.dp = 0 ∧
  State.reset.acc = ⟨0, 8, 23, false⟩ ∧ State.reset.pacc = ⟨0, 8, 23, false⟩ ∧ State.reset.lr = ⟨0, 0, 23, false⟩ ∧
  (∀ a : RegAddr, State.reset.reg a = if a = 0x05#6 ∨ a = 0x07#6 then 4096#32 else 0#32) ∧
  (∀ i, State.reset.mem.read i = 0#24) ∧
  (∀ k, State.reset.sine k = ⟨⟨0⟩, 0, 0, ⟨0⟩, ⟨0⟩⟩) ∧ (∀ k, State.reset.ramp k = ⟨0, 0, .r4096, ⟨0⟩⟩) ∧
  State.reset.diag = ⟨0, 0, 0, 0, 0, 0, 0, false, false, false, false, 0⟩

/-- The reset state meets every invariant below (R31, R34, R37, R44, R52, R200, R205, R212).
The program store, steps and configuration of the reset state are the model's choice (assumption 13), as are the canonical
form of the memory (assumption 5), the binary64 2π that bounds the phase (assumption 4) and the bias in the bound on IP
(assumption 19). -/
def Obligations.ResetMeetsInvariants : Prop :=
  MemoryCanonical State.reset ∧ DelayPointerInRange State.reset ∧ SlotsAgree State.reset ∧
  OscillatorsInRange State.reset ∧ StoredLive State.reset ∧ AccumulatorsClamped State.reset ∧
  FormatsDeclared State.reset ∧ ProgramLoaded State.reset ∧ StepsBelowIp State.reset ∧ IpBounded State.reset

/-- R37: every step keeps each LFO slot equal to its oscillator's parameter. -/
def Obligations.SlotsAgreeKept : Prop :=
  ∀ s t : State, SlotsAgree s → step s = .next t → SlotsAgree t

/-- R212: every step keeps each stored LFO value equal to the live value. -/
def Obligations.StoredLiveKept : Prop :=
  ∀ s t : State, StoredLive s → step s = .next t → StoredLive t

/-- R200, R205: every step keeps every oscillator in its ranges. The upper end of the phase range is the binary64 2π of
assumption 4 (the model's, not the spec's). -/
def Obligations.OscillatorRangesKept : Prop :=
  ∀ s t : State, OscillatorsInRange s → step s = .next t → OscillatorsInRange t

/-- R31, R33, R248: every step keeps ACC, PACC and LR in the 24-bit range while clamping is on, and their declared
formats. -/
def Obligations.AccumulatorsKept : Prop :=
  ∀ s t : State, step s = .next t →
    (AccumulatorsClamped s → AccumulatorsClamped t) ∧ (FormatsDeclared s → FormatsDeclared t)

/-- R34, R44, R70: every step keeps the delay memory's canonical form, DP in range, and IP within its bound when the
program was loaded.
The canonical form is the model's representation (assumption 5), and the bound on IP adds the bias (assumption 19). -/
def Obligations.MemoryAndPointersKept : Prop :=
  ∀ s t : State, step s = .next t →
    (MemoryCanonical s → MemoryCanonical t) ∧ (DelayPointerInRange s → DelayPointerInRange t) ∧
    (ProgramLoaded s → IpBounded s → IpBounded t)

end
end

