-- ==== Sys2Proof/Laws/Real64.lean ====
section
/-! SUPPORT. The laws of binary64 rounding: a result keeps the sign of the exact value and does not pass a bound that is
itself a 53-bit number; sin, cos and products of values in [-1, 1] stay in [-1, 1]. -/

namespace Sys2Proof.Machine

theorem roundNat_core (n den e M : Nat) (hden : 0 < den) (h : n ≤ den * (M * 2 ^ e)) :
    (if den * 2 ^ e < 2 * (n % (den * 2 ^ e)) ∨ (2 * (n % (den * 2 ^ e)) = den * 2 ^ e ∧ n / (den * 2 ^ e) % 2 = 1)
      then n / (den * 2 ^ e) + 1 else n / (den * 2 ^ e)) ≤ M := by
  have hd : 0 < den * 2 ^ e := Nat.mul_pos hden (Nat.two_pow_pos e)
  have hle : n ≤ M * (den * 2 ^ e) := by calc
    n ≤ den * (M * 2 ^ e) := h
    _ = M * (den * 2 ^ e) := by ring
  have hq : n / (den * 2 ^ e) ≤ M := Nat.div_le_of_le_mul (by rw [Nat.mul_comm]; exact hle)
  rcases Nat.lt_or_ge (n / (den * 2 ^ e)) M with hlt | hge
  · split <;> omega
  · have heq : n / (den * 2 ^ e) = M := Nat.le_antisymm hq hge
    have hmod : n % (den * 2 ^ e) = 0 := by
      have hdm := Nat.div_add_mod n (den * 2 ^ e)
      rw [heq, Nat.mul_comm] at hdm
      omega
    rw [hmod, heq]
    split <;> omega

/-- Rounding does not pass a bound that is a 53-bit number. -/
theorem roundNat_le (n den m k : Nat) (hden : 0 < den) (hm : m ≤ 2 ^ 53) (h : n ≤ den * (m * 2 ^ k)) :
    roundNat n den ≤ m * 2 ^ k := by
  have hq0 : n / den ≤ m * 2 ^ k := Nat.div_le_of_le_mul h
  unfold roundNat
  simp only
  generalize he : (n / den).log2 - 52 = e
  rcases Nat.lt_or_ge k e with hek | hek
  · have hne : n / den ≠ 0 := by
      intro h0
      rw [h0] at he
      simp at he
      omega
    have hlow : 2 ^ (52 + e) ≤ n / den := by
      have := Nat.log2_self_le hne
      have hl : (n / den).log2 = 52 + e := by omega
      rwa [hl] at this
    have hpow : (2 : Nat) ^ (53 + k) ≤ 2 ^ (52 + e) := Nat.pow_le_pow_right (by norm_num) (by omega)
    have hM : m * 2 ^ k ≤ 2 ^ (53 + k) := by rw [Nat.pow_add]; exact Nat.mul_le_mul_right _ hm
    have hek' : 2 ^ (52 + e) = 2 ^ 52 * 2 ^ e := Nat.pow_add 2 52 e
    have heq : m * 2 ^ k = 2 ^ 52 * 2 ^ e := by omega
    rw [heq] at h ⊢
    exact Nat.mul_le_mul_right _ (roundNat_core n den e _ hden h)
  · have hsplit : m * 2 ^ k = (m * 2 ^ (k - e)) * 2 ^ e := by rw [Nat.mul_assoc, ← Nat.pow_add]; congr 2; omega
    rw [hsplit] at h ⊢
    exact Nat.mul_le_mul_right _ (roundNat_core n den e _ hden h)

theorem roundQuot_nonneg (num : Int) (den : Nat) (h : 0 ≤ num) : 0 ≤ (roundQuot num den).units := by
  have : ¬ num < 0 := by omega
  simp only [roundQuot, this, if_false]
  exact Int.natCast_nonneg _

theorem roundQuot_le (num : Int) (den m k : Nat) (hden : 0 < den) (hm : m ≤ 2 ^ 53)
    (h : num ≤ ((den * (m * 2 ^ k) : Nat) : Int)) : (roundQuot num den).units ≤ ((m * 2 ^ k : Nat) : Int) := by
  unfold roundQuot
  dsimp only
  split
  · have := Int.natCast_nonneg (roundNat num.natAbs den)
    have := Int.natCast_nonneg (m * 2 ^ k)
    omega
  · exact Int.ofNat_le.mpr (roundNat_le _ _ _ _ hden hm (by omega))

theorem roundQuot_ge (num : Int) (den m k : Nat) (hden : 0 < den) (hm : m ≤ 2 ^ 53)
    (h : -((den * (m * 2 ^ k) : Nat) : Int) ≤ num) : -((m * 2 ^ k : Nat) : Int) ≤ (roundQuot num den).units := by
  unfold roundQuot
  dsimp only
  split
  · have := Int.ofNat_le.mpr (roundNat_le num.natAbs den m k hden hm (by omega))
    exact Int.neg_le_neg this
  · have := Int.natCast_nonneg (roundNat num.natAbs den)
    have := Int.natCast_nonneg (m * 2 ^ k)
    omega

/-- Rounding to 53 bits keeps the order of exact values. -/
theorem roundNat_mono (n m den : Nat) (hden : 0 < den) (h : n ≤ m) : roundNat n den ≤ roundNat m den := by
  have hq : n / den ≤ m / den := Nat.div_le_div_right h
  have he : (n / den).log2 - 52 ≤ (m / den).log2 - 52 := by
    simp only [Nat.log2_eq_log_two]
    exact Nat.sub_le_sub_right (Nat.log_mono_right hq) 52
  rcases Nat.lt_or_ge ((n / den).log2 - 52) ((m / den).log2 - 52) with hlt | hge
  · have hlow : roundNat n den ≤ 2 ^ 53 * 2 ^ ((n / den).log2 - 52) := by
      refine roundNat_le n den _ _ hden (le_refl _) ?_
      have h1 : n / den < 2 ^ ((n / den).log2 + 1) := Nat.lt_log2_self
      have h2 : 2 ^ ((n / den).log2 + 1) ≤ 2 ^ (53 + ((n / den).log2 - 52)) :=
        Nat.pow_le_pow_right (by norm_num) (by omega)
      have h3 : n < den * (n / den + 1) := Nat.lt_mul_div_succ n hden
      rw [← Nat.pow_add]
      exact le_trans h3.le (Nat.mul_le_mul_left _ (by omega))
    have hhigh : 2 ^ 52 * 2 ^ ((m / den).log2 - 52) ≤ roundNat m den := by
      unfold roundNat
      dsimp only
      have hne : m / den ≠ 0 := by
        intro h0
        rw [h0] at hlt
        simp at hlt
      have h1 : 2 ^ 52 * 2 ^ ((m / den).log2 - 52) ≤ m / den := by
        have hself := Nat.log2_self_le hne
        rw [← Nat.pow_add]
        rwa [show 52 + ((m / den).log2 - 52) = (m / den).log2 by omega]
      have h2 : 2 ^ 52 ≤ m / (den * 2 ^ ((m / den).log2 - 52)) := by
        rw [← Nat.div_div_eq_div_mul]
        exact (Nat.le_div_iff_mul_le (Nat.two_pow_pos _)).mpr h1
      refine Nat.mul_le_mul_right _ ?_
      split <;> omega
    refine le_trans hlow (le_trans ?_ hhigh)
    rw [← Nat.pow_add, ← Nat.pow_add]
    exact Nat.pow_le_pow_right (by norm_num) (by omega)
  · have heq : (m / den).log2 - 52 = (n / den).log2 - 52 := by omega
    unfold roundNat
    dsimp only
    rw [heq]
    refine Nat.mul_le_mul_right _ ?_
    generalize hd : den * 2 ^ ((n / den).log2 - 52) = d
    have hdq : n / d ≤ m / d := Nat.div_le_div_right h
    have hn := Nat.div_add_mod n d
    have hm := Nat.div_add_mod m d
    rcases Nat.lt_or_ge (n / d) (m / d) with h1 | h1
    · split <;> split <;> omega
    · have h2 : m / d = n / d := by omega
      rw [h2] at hm ⊢
      split <;> split <;> omega

theorem roundQuot_mono (a b : Int) (den : Nat) (hden : 0 < den) (h : a ≤ b) :
    (roundQuot a den).units ≤ (roundQuot b den).units := by
  unfold roundQuot
  dsimp only
  split <;> split
  · exact Int.neg_le_neg (Int.ofNat_le.mpr (roundNat_mono _ _ den hden (by omega)))
  · have := Int.natCast_nonneg (roundNat a.natAbs den)
    have := Int.natCast_nonneg (roundNat b.natAbs den)
    omega
  · omega
  · exact Int.ofNat_le.mpr (roundNat_mono _ _ den hden (by omega))

theorem realOne_eq : realOne = 2 ^ 52 * 2 ^ 140 := by decide +kernel

theorem realOne_pos : 0 < realOne := by decide +kernel

/-- A value lies in [-1, 1] exactly when its units do (R211). -/
theorem Real64.inUnit_iff (a : Real64) : a.inUnit = true ↔ -(realOne : Int) ≤ a.units ∧ a.units ≤ realOne := by
  simp [Real64.inUnit]

theorem Real64.clampUnit_inUnit (a : Real64) : a.clampUnit.inUnit = true := by
  have h := realOne_pos
  rw [Real64.inUnit_iff]
  simp only [Real64.clampUnit]
  omega

/-- A quotient of absolute value at most 1 rounds to a value in [-1, 1]. -/
theorem roundQuot_inUnit (num : Int) (den : Nat) (hden : 0 < den) (hlo : -((den * realOne : Nat) : Int) ≤ num)
    (hhi : num ≤ ((den * realOne : Nat) : Int)) : (roundQuot num den).inUnit = true := by
  rw [Real64.inUnit_iff]
  rw [realOne_eq] at hlo hhi ⊢
  exact ⟨roundQuot_ge _ _ _ _ hden (by norm_num) hlo, roundQuot_le _ _ _ _ hden (by norm_num) hhi⟩

theorem Real64.sin_inUnit (a : Real64) : a.sin.inUnit = true := by
  simp only [Real64.sin]
  split <;> exact Real64.clampUnit_inUnit _

theorem Real64.cos_inUnit (a : Real64) : a.cos.inUnit = true := Real64.clampUnit_inUnit _

/-- The product of two values in [-1, 1] is in [-1, 1]. -/
theorem Real64.mul_inUnit (a b : Real64) (ha : a.inUnit = true) (hb : b.inUnit = true) : (a.mul b).inUnit = true := by
  rw [Real64.inUnit_iff] at ha hb
  apply roundQuot_inUnit _ _ realOne_pos
  · rw [Nat.cast_mul]
    nlinarith [realOne_pos]
  · rw [Nat.cast_mul]
    nlinarith [realOne_pos]

/-- A quotient of naturals that is at most 1 lies in [0, 1]. -/
theorem Real64.ofRatio_inUnit (p q : Nat) (hq : 0 < q) (h : p ≤ q) : (Real64.ofRatio p q).inUnit = true := by
  apply roundQuot_inUnit _ _ hq
  · have := Int.natCast_nonneg (realOne * p)
    have := Int.natCast_nonneg (q * realOne)
    push_cast at *
    omega
  · have := Nat.mul_le_mul_left realOne h
    rw [Nat.mul_comm q]
    push_cast
    exact_mod_cast this

theorem Real64.ofRatio_nonneg (p q : Nat) : 0 ≤ (Real64.ofRatio p q).units :=
  roundQuot_nonneg _ _ (Int.mul_nonneg (Int.natCast_nonneg realOne) (Int.natCast_nonneg p))

end Sys2Proof.Machine
end

