-- ==== Sys2Proof/Laws/State.lean ====
section
/-! SUPPORT. One lemma for each field of the state under each named update, so that no proof unfolds a record update. -/

namespace Sys2Proof.Machine

/-! Fields under `nextIp`. -/

@[simp] theorem nextIp_cfg (s : State) : s.nextIp.cfg = s.cfg := rfl
@[simp] theorem nextIp_program (s : State) : s.nextIp.program = s.program := rfl
@[simp] theorem nextIp_host (s : State) : s.nextIp.host = s.host := rfl
@[simp] theorem nextIp_phase (s : State) : s.nextIp.phase = s.phase := rfl
@[simp] theorem nextIp_steps (s : State) : s.nextIp.steps = s.steps := rfl
@[simp] theorem nextIp_ip (s : State) : s.nextIp.ip = s.ip + 1 := rfl
@[simp] theorem nextIp_acc (s : State) : s.nextIp.acc = s.acc := rfl
@[simp] theorem nextIp_pacc (s : State) : s.nextIp.pacc = s.pacc := rfl
@[simp] theorem nextIp_lr (s : State) : s.nextIp.lr = s.lr := rfl
@[simp] theorem nextIp_regs (s : State) : s.nextIp.regs = s.regs := rfl
@[simp] theorem nextIp_mem (s : State) : s.nextIp.mem = s.mem := rfl
@[simp] theorem nextIp_dp (s : State) : s.nextIp.dp = s.dp := rfl
@[simp] theorem nextIp_run (s : State) : s.nextIp.run = s.run := rfl
@[simp] theorem nextIp_sin0 (s : State) : s.nextIp.sin0 = s.sin0 := rfl
@[simp] theorem nextIp_sin1 (s : State) : s.nextIp.sin1 = s.sin1 := rfl
@[simp] theorem nextIp_rmp0 (s : State) : s.nextIp.rmp0 = s.rmp0 := rfl
@[simp] theorem nextIp_rmp1 (s : State) : s.nextIp.rmp1 = s.rmp1 := rfl
@[simp] theorem nextIp_diag (s : State) : s.nextIp.diag = s.diag := rfl

/-! Fields under `writeAcc`. -/

@[simp] theorem writeAcc_cfg (s : State) (v : Fixed) : (s.writeAcc v).cfg = s.cfg := rfl
@[simp] theorem writeAcc_program (s : State) (v : Fixed) : (s.writeAcc v).program = s.program := rfl
@[simp] theorem writeAcc_host (s : State) (v : Fixed) : (s.writeAcc v).host = s.host := rfl
@[simp] theorem writeAcc_phase (s : State) (v : Fixed) : (s.writeAcc v).phase = s.phase := rfl
@[simp] theorem writeAcc_steps (s : State) (v : Fixed) : (s.writeAcc v).steps = s.steps := rfl
@[simp] theorem writeAcc_ip (s : State) (v : Fixed) : (s.writeAcc v).ip = s.ip := rfl
@[simp] theorem writeAcc_acc (s : State) (v : Fixed) : (s.writeAcc v).acc = ⟨v.raw, 8, 23, v.ovf⟩ := rfl
@[simp] theorem writeAcc_pacc (s : State) (v : Fixed) : (s.writeAcc v).pacc = s.pacc := rfl
@[simp] theorem writeAcc_lr (s : State) (v : Fixed) : (s.writeAcc v).lr = s.lr := rfl
@[simp] theorem writeAcc_regs (s : State) (v : Fixed) : (s.writeAcc v).regs = s.regs := rfl
@[simp] theorem writeAcc_mem (s : State) (v : Fixed) : (s.writeAcc v).mem = s.mem := rfl
@[simp] theorem writeAcc_dp (s : State) (v : Fixed) : (s.writeAcc v).dp = s.dp := rfl
@[simp] theorem writeAcc_run (s : State) (v : Fixed) : (s.writeAcc v).run = s.run := rfl
@[simp] theorem writeAcc_sin0 (s : State) (v : Fixed) : (s.writeAcc v).sin0 = s.sin0 := rfl
@[simp] theorem writeAcc_sin1 (s : State) (v : Fixed) : (s.writeAcc v).sin1 = s.sin1 := rfl
@[simp] theorem writeAcc_rmp0 (s : State) (v : Fixed) : (s.writeAcc v).rmp0 = s.rmp0 := rfl
@[simp] theorem writeAcc_rmp1 (s : State) (v : Fixed) : (s.writeAcc v).rmp1 = s.rmp1 := rfl
@[simp] theorem writeAcc_diag (s : State) (v : Fixed) : (s.writeAcc v).diag = s.diag := rfl

/-! Fields under `capturePacc`. -/

@[simp] theorem capturePacc_cfg (s : State) : s.capturePacc.cfg = s.cfg := rfl
@[simp] theorem capturePacc_program (s : State) : s.capturePacc.program = s.program := rfl
@[simp] theorem capturePacc_host (s : State) : s.capturePacc.host = s.host := rfl
@[simp] theorem capturePacc_phase (s : State) : s.capturePacc.phase = s.phase := rfl
@[simp] theorem capturePacc_steps (s : State) : s.capturePacc.steps = s.steps := rfl
@[simp] theorem capturePacc_ip (s : State) : s.capturePacc.ip = s.ip := rfl
@[simp] theorem capturePacc_acc (s : State) : s.capturePacc.acc = s.acc := rfl
@[simp] theorem capturePacc_pacc (s : State) : s.capturePacc.pacc = s.acc := rfl
@[simp] theorem capturePacc_lr (s : State) : s.capturePacc.lr = s.lr := rfl
@[simp] theorem capturePacc_regs (s : State) : s.capturePacc.regs = s.regs := rfl
@[simp] theorem capturePacc_mem (s : State) : s.capturePacc.mem = s.mem := rfl
@[simp] theorem capturePacc_dp (s : State) : s.capturePacc.dp = s.dp := rfl
@[simp] theorem capturePacc_run (s : State) : s.capturePacc.run = s.run := rfl
@[simp] theorem capturePacc_sin0 (s : State) : s.capturePacc.sin0 = s.sin0 := rfl
@[simp] theorem capturePacc_sin1 (s : State) : s.capturePacc.sin1 = s.sin1 := rfl
@[simp] theorem capturePacc_rmp0 (s : State) : s.capturePacc.rmp0 = s.rmp0 := rfl
@[simp] theorem capturePacc_rmp1 (s : State) : s.capturePacc.rmp1 = s.rmp1 := rfl
@[simp] theorem capturePacc_diag (s : State) : s.capturePacc.diag = { s.diag with paccOverflows := s.diag.paccOverflows + s.acc.ovf.toNat } :=
  rfl

/-! Fields under `countOvf`. -/

@[simp] theorem countOvf_cfg (s : State) (l : List Fixed) : (s.countOvf l).cfg = s.cfg := rfl
@[simp] theorem countOvf_program (s : State) (l : List Fixed) : (s.countOvf l).program = s.program := rfl
@[simp] theorem countOvf_host (s : State) (l : List Fixed) : (s.countOvf l).host = s.host := rfl
@[simp] theorem countOvf_phase (s : State) (l : List Fixed) : (s.countOvf l).phase = s.phase := rfl
@[simp] theorem countOvf_steps (s : State) (l : List Fixed) : (s.countOvf l).steps = s.steps := rfl
@[simp] theorem countOvf_ip (s : State) (l : List Fixed) : (s.countOvf l).ip = s.ip := rfl
@[simp] theorem countOvf_acc (s : State) (l : List Fixed) : (s.countOvf l).acc = s.acc := rfl
@[simp] theorem countOvf_pacc (s : State) (l : List Fixed) : (s.countOvf l).pacc = s.pacc := rfl
@[simp] theorem countOvf_lr (s : State) (l : List Fixed) : (s.countOvf l).lr = s.lr := rfl
@[simp] theorem countOvf_regs (s : State) (l : List Fixed) : (s.countOvf l).regs = s.regs := rfl
@[simp] theorem countOvf_mem (s : State) (l : List Fixed) : (s.countOvf l).mem = s.mem := rfl
@[simp] theorem countOvf_dp (s : State) (l : List Fixed) : (s.countOvf l).dp = s.dp := rfl
@[simp] theorem countOvf_run (s : State) (l : List Fixed) : (s.countOvf l).run = s.run := rfl
@[simp] theorem countOvf_sin0 (s : State) (l : List Fixed) : (s.countOvf l).sin0 = s.sin0 := rfl
@[simp] theorem countOvf_sin1 (s : State) (l : List Fixed) : (s.countOvf l).sin1 = s.sin1 := rfl
@[simp] theorem countOvf_rmp0 (s : State) (l : List Fixed) : (s.countOvf l).rmp0 = s.rmp0 := rfl
@[simp] theorem countOvf_rmp1 (s : State) (l : List Fixed) : (s.countOvf l).rmp1 = s.rmp1 := rfl
@[simp] theorem countOvf_diag (s : State) (l : List Fixed) : (s.countOvf l).diag = { s.diag with accOverflows := s.diag.accOverflows + l.countP (·.ovf) } :=
  rfl

/-! Fields under `finishAcc`. -/

@[simp] theorem finishAcc_cfg (s : State) (l : List Fixed) (v : Fixed) : (s.finishAcc l v).cfg = s.cfg := rfl
@[simp] theorem finishAcc_program (s : State) (l : List Fixed) (v : Fixed) : (s.finishAcc l v).program = s.program :=
  rfl
@[simp] theorem finishAcc_host (s : State) (l : List Fixed) (v : Fixed) : (s.finishAcc l v).host = s.host := rfl
@[simp] theorem finishAcc_phase (s : State) (l : List Fixed) (v : Fixed) : (s.finishAcc l v).phase = s.phase := rfl
@[simp] theorem finishAcc_steps (s : State) (l : List Fixed) (v : Fixed) : (s.finishAcc l v).steps = s.steps := rfl
@[simp] theorem finishAcc_ip (s : State) (l : List Fixed) (v : Fixed) : (s.finishAcc l v).ip = s.ip + 1 := rfl
@[simp] theorem finishAcc_acc (s : State) (l : List Fixed) (v : Fixed) : (s.finishAcc l v).acc = ⟨v.raw, 8, 23, v.ovf⟩ :=
  rfl
@[simp] theorem finishAcc_pacc (s : State) (l : List Fixed) (v : Fixed) : (s.finishAcc l v).pacc = s.pacc := rfl
@[simp] theorem finishAcc_lr (s : State) (l : List Fixed) (v : Fixed) : (s.finishAcc l v).lr = s.lr := rfl
@[simp] theorem finishAcc_regs (s : State) (l : List Fixed) (v : Fixed) : (s.finishAcc l v).regs = s.regs := rfl
@[simp] theorem finishAcc_mem (s : State) (l : List Fixed) (v : Fixed) : (s.finishAcc l v).mem = s.mem := rfl
@[simp] theorem finishAcc_dp (s : State) (l : List Fixed) (v : Fixed) : (s.finishAcc l v).dp = s.dp := rfl
@[simp] theorem finishAcc_run (s : State) (l : List Fixed) (v : Fixed) : (s.finishAcc l v).run = s.run := rfl
@[simp] theorem finishAcc_sin0 (s : State) (l : List Fixed) (v : Fixed) : (s.finishAcc l v).sin0 = s.sin0 := rfl
@[simp] theorem finishAcc_sin1 (s : State) (l : List Fixed) (v : Fixed) : (s.finishAcc l v).sin1 = s.sin1 := rfl
@[simp] theorem finishAcc_rmp0 (s : State) (l : List Fixed) (v : Fixed) : (s.finishAcc l v).rmp0 = s.rmp0 := rfl
@[simp] theorem finishAcc_rmp1 (s : State) (l : List Fixed) (v : Fixed) : (s.finishAcc l v).rmp1 = s.rmp1 := rfl
@[simp] theorem finishAcc_diag (s : State) (l : List Fixed) (v : Fixed) : (s.finishAcc l v).diag = { s.diag with accOverflows := s.diag.accOverflows + l.countP (·.ovf) } :=
  rfl

/-! Fields under `countOob`. -/

@[simp] theorem countOob_cfg (s : State) (k : AccessKind) (a : Int) : (s.countOob k a).cfg = s.cfg :=
  by cases k <;> rfl
@[simp] theorem countOob_program (s : State) (k : AccessKind) (a : Int) : (s.countOob k a).program = s.program :=
  by cases k <;> rfl
@[simp] theorem countOob_host (s : State) (k : AccessKind) (a : Int) : (s.countOob k a).host = s.host :=
  by cases k <;> rfl
@[simp] theorem countOob_phase (s : State) (k : AccessKind) (a : Int) : (s.countOob k a).phase = s.phase :=
  by cases k <;> rfl
@[simp] theorem countOob_steps (s : State) (k : AccessKind) (a : Int) : (s.countOob k a).steps = s.steps :=
  by cases k <;> rfl
@[simp] theorem countOob_ip (s : State) (k : AccessKind) (a : Int) : (s.countOob k a).ip = s.ip := by cases k <;> rfl
@[simp] theorem countOob_acc (s : State) (k : AccessKind) (a : Int) : (s.countOob k a).acc = s.acc :=
  by cases k <;> rfl
@[simp] theorem countOob_pacc (s : State) (k : AccessKind) (a : Int) : (s.countOob k a).pacc = s.pacc :=
  by cases k <;> rfl
@[simp] theorem countOob_lr (s : State) (k : AccessKind) (a : Int) : (s.countOob k a).lr = s.lr := by cases k <;> rfl
@[simp] theorem countOob_regs (s : State) (k : AccessKind) (a : Int) : (s.countOob k a).regs = s.regs :=
  by cases k <;> rfl
@[simp] theorem countOob_mem (s : State) (k : AccessKind) (a : Int) : (s.countOob k a).mem = s.mem :=
  by cases k <;> rfl
@[simp] theorem countOob_dp (s : State) (k : AccessKind) (a : Int) : (s.countOob k a).dp = s.dp := by cases k <;> rfl
@[simp] theorem countOob_run (s : State) (k : AccessKind) (a : Int) : (s.countOob k a).run = s.run :=
  by cases k <;> rfl
@[simp] theorem countOob_sin0 (s : State) (k : AccessKind) (a : Int) : (s.countOob k a).sin0 = s.sin0 :=
  by cases k <;> rfl
@[simp] theorem countOob_sin1 (s : State) (k : AccessKind) (a : Int) : (s.countOob k a).sin1 = s.sin1 :=
  by cases k <;> rfl
@[simp] theorem countOob_rmp0 (s : State) (k : AccessKind) (a : Int) : (s.countOob k a).rmp0 = s.rmp0 :=
  by cases k <;> rfl
@[simp] theorem countOob_rmp1 (s : State) (k : AccessKind) (a : Int) : (s.countOob k a).rmp1 = s.rmp1 :=
  by cases k <;> rfl

/-! Fields under `delayRead`. -/

@[simp] theorem delayRead_cfg (s : State) (a : Int) : (s.delayRead a).cfg = s.cfg := rfl
@[simp] theorem delayRead_program (s : State) (a : Int) : (s.delayRead a).program = s.program := rfl
@[simp] theorem delayRead_host (s : State) (a : Int) : (s.delayRead a).host = s.host := rfl
@[simp] theorem delayRead_phase (s : State) (a : Int) : (s.delayRead a).phase = s.phase := rfl
@[simp] theorem delayRead_steps (s : State) (a : Int) : (s.delayRead a).steps = s.steps := rfl
@[simp] theorem delayRead_ip (s : State) (a : Int) : (s.delayRead a).ip = s.ip := rfl
@[simp] theorem delayRead_acc (s : State) (a : Int) : (s.delayRead a).acc = s.acc := rfl
@[simp] theorem delayRead_pacc (s : State) (a : Int) : (s.delayRead a).pacc = s.pacc := rfl
@[simp] theorem delayRead_lr (s : State) (a : Int) : (s.delayRead a).lr = ofDelayWord (s.mem.read (delayIndex s a)) :=
  rfl
@[simp] theorem delayRead_regs (s : State) (a : Int) : (s.delayRead a).regs = s.regs := rfl
@[simp] theorem delayRead_mem (s : State) (a : Int) : (s.delayRead a).mem = s.mem := rfl
@[simp] theorem delayRead_dp (s : State) (a : Int) : (s.delayRead a).dp = s.dp := rfl
@[simp] theorem delayRead_run (s : State) (a : Int) : (s.delayRead a).run = s.run := rfl
@[simp] theorem delayRead_sin0 (s : State) (a : Int) : (s.delayRead a).sin0 = s.sin0 := rfl
@[simp] theorem delayRead_sin1 (s : State) (a : Int) : (s.delayRead a).sin1 = s.sin1 := rfl
@[simp] theorem delayRead_rmp0 (s : State) (a : Int) : (s.delayRead a).rmp0 = s.rmp0 := rfl
@[simp] theorem delayRead_rmp1 (s : State) (a : Int) : (s.delayRead a).rmp1 = s.rmp1 := rfl
@[simp] theorem delayRead_diag (s : State) (a : Int) : (s.delayRead a).diag = (s.countOob .read a).diag := rfl

/-! Fields under `delayWrite`. -/

@[simp] theorem delayWrite_cfg (s : State) (a : Int) : (s.delayWrite a).cfg = s.cfg := rfl
@[simp] theorem delayWrite_program (s : State) (a : Int) : (s.delayWrite a).program = s.program := rfl
@[simp] theorem delayWrite_host (s : State) (a : Int) : (s.delayWrite a).host = s.host := rfl
@[simp] theorem delayWrite_phase (s : State) (a : Int) : (s.delayWrite a).phase = s.phase := rfl
@[simp] theorem delayWrite_steps (s : State) (a : Int) : (s.delayWrite a).steps = s.steps := rfl
@[simp] theorem delayWrite_ip (s : State) (a : Int) : (s.delayWrite a).ip = s.ip := rfl
@[simp] theorem delayWrite_acc (s : State) (a : Int) : (s.delayWrite a).acc = s.acc := rfl
@[simp] theorem delayWrite_pacc (s : State) (a : Int) : (s.delayWrite a).pacc = s.pacc := rfl
@[simp] theorem delayWrite_lr (s : State) (a : Int) : (s.delayWrite a).lr = s.lr := rfl
@[simp] theorem delayWrite_regs (s : State) (a : Int) : (s.delayWrite a).regs = s.regs := rfl
@[simp] theorem delayWrite_mem (s : State) (a : Int) : (s.delayWrite a).mem = s.mem.write (delayIndex s a) (toQ s.acc 0 23).1 :=
  rfl
@[simp] theorem delayWrite_dp (s : State) (a : Int) : (s.delayWrite a).dp = s.dp := rfl
@[simp] theorem delayWrite_run (s : State) (a : Int) : (s.delayWrite a).run = s.run := rfl
@[simp] theorem delayWrite_sin0 (s : State) (a : Int) : (s.delayWrite a).sin0 = s.sin0 := rfl
@[simp] theorem delayWrite_sin1 (s : State) (a : Int) : (s.delayWrite a).sin1 = s.sin1 := rfl
@[simp] theorem delayWrite_rmp0 (s : State) (a : Int) : (s.delayWrite a).rmp0 = s.rmp0 := rfl
@[simp] theorem delayWrite_rmp1 (s : State) (a : Int) : (s.delayWrite a).rmp1 = s.rmp1 := rfl

/-! Fields under `countDac`. -/

@[simp] theorem countDac_cfg (s : State) (l : Bool) (v : Fixed) : (s.countDac l v).cfg = s.cfg := by cases l <;> rfl
@[simp] theorem countDac_program (s : State) (l : Bool) (v : Fixed) : (s.countDac l v).program = s.program :=
  by cases l <;> rfl
@[simp] theorem countDac_host (s : State) (l : Bool) (v : Fixed) : (s.countDac l v).host = s.host :=
  by cases l <;> rfl
@[simp] theorem countDac_phase (s : State) (l : Bool) (v : Fixed) : (s.countDac l v).phase = s.phase :=
  by cases l <;> rfl
@[simp] theorem countDac_steps (s : State) (l : Bool) (v : Fixed) : (s.countDac l v).steps = s.steps :=
  by cases l <;> rfl
@[simp] theorem countDac_ip (s : State) (l : Bool) (v : Fixed) : (s.countDac l v).ip = s.ip := by cases l <;> rfl
@[simp] theorem countDac_acc (s : State) (l : Bool) (v : Fixed) : (s.countDac l v).acc = s.acc := by cases l <;> rfl
@[simp] theorem countDac_pacc (s : State) (l : Bool) (v : Fixed) : (s.countDac l v).pacc = s.pacc :=
  by cases l <;> rfl
@[simp] theorem countDac_lr (s : State) (l : Bool) (v : Fixed) : (s.countDac l v).lr = s.lr := by cases l <;> rfl
@[simp] theorem countDac_regs (s : State) (l : Bool) (v : Fixed) : (s.countDac l v).regs = s.regs :=
  by cases l <;> rfl
@[simp] theorem countDac_mem (s : State) (l : Bool) (v : Fixed) : (s.countDac l v).mem = s.mem := by cases l <;> rfl
@[simp] theorem countDac_dp (s : State) (l : Bool) (v : Fixed) : (s.countDac l v).dp = s.dp := by cases l <;> rfl
@[simp] theorem countDac_run (s : State) (l : Bool) (v : Fixed) : (s.countDac l v).run = s.run := by cases l <;> rfl
@[simp] theorem countDac_sin0 (s : State) (l : Bool) (v : Fixed) : (s.countDac l v).sin0 = s.sin0 :=
  by cases l <;> rfl
@[simp] theorem countDac_sin1 (s : State) (l : Bool) (v : Fixed) : (s.countDac l v).sin1 = s.sin1 :=
  by cases l <;> rfl
@[simp] theorem countDac_rmp0 (s : State) (l : Bool) (v : Fixed) : (s.countDac l v).rmp0 = s.rmp0 :=
  by cases l <;> rfl
@[simp] theorem countDac_rmp1 (s : State) (l : Bool) (v : Fixed) : (s.countDac l v).rmp1 = s.rmp1 :=
  by cases l <;> rfl

/-! Fields under `countClamps`. -/

@[simp] theorem countClamps_cfg (s : State) (n : Nat) : (s.countClamps n).cfg = s.cfg := rfl
@[simp] theorem countClamps_program (s : State) (n : Nat) : (s.countClamps n).program = s.program := rfl
@[simp] theorem countClamps_host (s : State) (n : Nat) : (s.countClamps n).host = s.host := rfl
@[simp] theorem countClamps_phase (s : State) (n : Nat) : (s.countClamps n).phase = s.phase := rfl
@[simp] theorem countClamps_steps (s : State) (n : Nat) : (s.countClamps n).steps = s.steps := rfl
@[simp] theorem countClamps_ip (s : State) (n : Nat) : (s.countClamps n).ip = s.ip := rfl
@[simp] theorem countClamps_acc (s : State) (n : Nat) : (s.countClamps n).acc = s.acc := rfl
@[simp] theorem countClamps_pacc (s : State) (n : Nat) : (s.countClamps n).pacc = s.pacc := rfl
@[simp] theorem countClamps_lr (s : State) (n : Nat) : (s.countClamps n).lr = s.lr := rfl
@[simp] theorem countClamps_regs (s : State) (n : Nat) : (s.countClamps n).regs = s.regs := rfl
@[simp] theorem countClamps_mem (s : State) (n : Nat) : (s.countClamps n).mem = s.mem := rfl
@[simp] theorem countClamps_dp (s : State) (n : Nat) : (s.countClamps n).dp = s.dp := rfl
@[simp] theorem countClamps_run (s : State) (n : Nat) : (s.countClamps n).run = s.run := rfl
@[simp] theorem countClamps_sin0 (s : State) (n : Nat) : (s.countClamps n).sin0 = s.sin0 := rfl
@[simp] theorem countClamps_sin1 (s : State) (n : Nat) : (s.countClamps n).sin1 = s.sin1 := rfl
@[simp] theorem countClamps_rmp0 (s : State) (n : Nat) : (s.countClamps n).rmp0 = s.rmp0 := rfl
@[simp] theorem countClamps_rmp1 (s : State) (n : Nat) : (s.countClamps n).rmp1 = s.rmp1 := rfl
@[simp] theorem countClamps_diag (s : State) (n : Nat) : (s.countClamps n).diag = { s.diag with lfoInvariantClamps := s.diag.lfoInvariantClamps + n } :=
  rfl

/-! Fields under `setReg`. -/

@[simp] theorem setReg_cfg (s : State) (a : RegAddr) (v : Word) : (s.setReg a v).cfg = s.cfg := rfl
@[simp] theorem setReg_program (s : State) (a : RegAddr) (v : Word) : (s.setReg a v).program = s.program := rfl
@[simp] theorem setReg_host (s : State) (a : RegAddr) (v : Word) : (s.setReg a v).host = s.host := rfl
@[simp] theorem setReg_phase (s : State) (a : RegAddr) (v : Word) : (s.setReg a v).phase = s.phase := rfl
@[simp] theorem setReg_steps (s : State) (a : RegAddr) (v : Word) : (s.setReg a v).steps = s.steps := rfl
@[simp] theorem setReg_ip (s : State) (a : RegAddr) (v : Word) : (s.setReg a v).ip = s.ip := rfl
@[simp] theorem setReg_acc (s : State) (a : RegAddr) (v : Word) : (s.setReg a v).acc = s.acc := rfl
@[simp] theorem setReg_pacc (s : State) (a : RegAddr) (v : Word) : (s.setReg a v).pacc = s.pacc := rfl
@[simp] theorem setReg_lr (s : State) (a : RegAddr) (v : Word) : (s.setReg a v).lr = s.lr := rfl
@[simp] theorem setReg_regs (s : State) (a : RegAddr) (v : Word) : (s.setReg a v).regs = s.regs.set a.toNat v a.isLt :=
  rfl
@[simp] theorem setReg_mem (s : State) (a : RegAddr) (v : Word) : (s.setReg a v).mem = s.mem := rfl
@[simp] theorem setReg_dp (s : State) (a : RegAddr) (v : Word) : (s.setReg a v).dp = s.dp := rfl
@[simp] theorem setReg_run (s : State) (a : RegAddr) (v : Word) : (s.setReg a v).run = s.run := rfl
@[simp] theorem setReg_sin0 (s : State) (a : RegAddr) (v : Word) : (s.setReg a v).sin0 = s.sin0 := rfl
@[simp] theorem setReg_sin1 (s : State) (a : RegAddr) (v : Word) : (s.setReg a v).sin1 = s.sin1 := rfl
@[simp] theorem setReg_rmp0 (s : State) (a : RegAddr) (v : Word) : (s.setReg a v).rmp0 = s.rmp0 := rfl
@[simp] theorem setReg_rmp1 (s : State) (a : RegAddr) (v : Word) : (s.setReg a v).rmp1 = s.rmp1 := rfl
@[simp] theorem setReg_diag (s : State) (a : RegAddr) (v : Word) : (s.setReg a v).diag = s.diag := rfl

/-! Fields under `setSine`. -/

@[simp] theorem setSine_cfg (s : State) (k : SineSel) (o : SineOsc) : (s.setSine k o).cfg = s.cfg :=
  by cases k <;> rfl
@[simp] theorem setSine_program (s : State) (k : SineSel) (o : SineOsc) : (s.setSine k o).program = s.program :=
  by cases k <;> rfl
@[simp] theorem setSine_host (s : State) (k : SineSel) (o : SineOsc) : (s.setSine k o).host = s.host :=
  by cases k <;> rfl
@[simp] theorem setSine_phase (s : State) (k : SineSel) (o : SineOsc) : (s.setSine k o).phase = s.phase :=
  by cases k <;> rfl
@[simp] theorem setSine_steps (s : State) (k : SineSel) (o : SineOsc) : (s.setSine k o).steps = s.steps :=
  by cases k <;> rfl
@[simp] theorem setSine_ip (s : State) (k : SineSel) (o : SineOsc) : (s.setSine k o).ip = s.ip := by cases k <;> rfl
@[simp] theorem setSine_acc (s : State) (k : SineSel) (o : SineOsc) : (s.setSine k o).acc = s.acc :=
  by cases k <;> rfl
@[simp] theorem setSine_pacc (s : State) (k : SineSel) (o : SineOsc) : (s.setSine k o).pacc = s.pacc :=
  by cases k <;> rfl
@[simp] theorem setSine_lr (s : State) (k : SineSel) (o : SineOsc) : (s.setSine k o).lr = s.lr := by cases k <;> rfl
@[simp] theorem setSine_regs (s : State) (k : SineSel) (o : SineOsc) : (s.setSine k o).regs = s.regs :=
  by cases k <;> rfl
@[simp] theorem setSine_mem (s : State) (k : SineSel) (o : SineOsc) : (s.setSine k o).mem = s.mem :=
  by cases k <;> rfl
@[simp] theorem setSine_dp (s : State) (k : SineSel) (o : SineOsc) : (s.setSine k o).dp = s.dp := by cases k <;> rfl
@[simp] theorem setSine_run (s : State) (k : SineSel) (o : SineOsc) : (s.setSine k o).run = s.run :=
  by cases k <;> rfl
@[simp] theorem setSine_rmp0 (s : State) (k : SineSel) (o : SineOsc) : (s.setSine k o).rmp0 = s.rmp0 :=
  by cases k <;> rfl
@[simp] theorem setSine_rmp1 (s : State) (k : SineSel) (o : SineOsc) : (s.setSine k o).rmp1 = s.rmp1 :=
  by cases k <;> rfl
@[simp] theorem setSine_diag (s : State) (k : SineSel) (o : SineOsc) : (s.setSine k o).diag = s.diag :=
  by cases k <;> rfl

/-! Fields under `setRamp`. -/

@[simp] theorem setRamp_cfg (s : State) (k : RampSel) (o : RampOsc) : (s.setRamp k o).cfg = s.cfg :=
  by cases k <;> rfl
@[simp] theorem setRamp_program (s : State) (k : RampSel) (o : RampOsc) : (s.setRamp k o).program = s.program :=
  by cases k <;> rfl
@[simp] theorem setRamp_host (s : State) (k : RampSel) (o : RampOsc) : (s.setRamp k o).host = s.host :=
  by cases k <;> rfl
@[simp] theorem setRamp_phase (s : State) (k : RampSel) (o : RampOsc) : (s.setRamp k o).phase = s.phase :=
  by cases k <;> rfl
@[simp] theorem setRamp_steps (s : State) (k : RampSel) (o : RampOsc) : (s.setRamp k o).steps = s.steps :=
  by cases k <;> rfl
@[simp] theorem setRamp_ip (s : State) (k : RampSel) (o : RampOsc) : (s.setRamp k o).ip = s.ip := by cases k <;> rfl
@[simp] theorem setRamp_acc (s : State) (k : RampSel) (o : RampOsc) : (s.setRamp k o).acc = s.acc :=
  by cases k <;> rfl
@[simp] theorem setRamp_pacc (s : State) (k : RampSel) (o : RampOsc) : (s.setRamp k o).pacc = s.pacc :=
  by cases k <;> rfl
@[simp] theorem setRamp_lr (s : State) (k : RampSel) (o : RampOsc) : (s.setRamp k o).lr = s.lr := by cases k <;> rfl
@[simp] theorem setRamp_regs (s : State) (k : RampSel) (o : RampOsc) : (s.setRamp k o).regs = s.regs :=
  by cases k <;> rfl
@[simp] theorem setRamp_mem (s : State) (k : RampSel) (o : RampOsc) : (s.setRamp k o).mem = s.mem :=
  by cases k <;> rfl
@[simp] theorem setRamp_dp (s : State) (k : RampSel) (o : RampOsc) : (s.setRamp k o).dp = s.dp := by cases k <;> rfl
@[simp] theorem setRamp_run (s : State) (k : RampSel) (o : RampOsc) : (s.setRamp k o).run = s.run :=
  by cases k <;> rfl
@[simp] theorem setRamp_sin0 (s : State) (k : RampSel) (o : RampOsc) : (s.setRamp k o).sin0 = s.sin0 :=
  by cases k <;> rfl
@[simp] theorem setRamp_sin1 (s : State) (k : RampSel) (o : RampOsc) : (s.setRamp k o).sin1 = s.sin1 :=
  by cases k <;> rfl
@[simp] theorem setRamp_diag (s : State) (k : RampSel) (o : RampOsc) : (s.setRamp k o).diag = s.diag :=
  by cases k <;> rfl

/-! Fields under `flagSine`. -/

@[simp] theorem flagSine_cfg (s : State) (k : SineSel) (b : Bool) : (s.flagSine k b).cfg = s.cfg := by cases k <;> rfl
@[simp] theorem flagSine_program (s : State) (k : SineSel) (b : Bool) : (s.flagSine k b).program = s.program :=
  by cases k <;> rfl
@[simp] theorem flagSine_host (s : State) (k : SineSel) (b : Bool) : (s.flagSine k b).host = s.host :=
  by cases k <;> rfl
@[simp] theorem flagSine_phase (s : State) (k : SineSel) (b : Bool) : (s.flagSine k b).phase = s.phase :=
  by cases k <;> rfl
@[simp] theorem flagSine_steps (s : State) (k : SineSel) (b : Bool) : (s.flagSine k b).steps = s.steps :=
  by cases k <;> rfl
@[simp] theorem flagSine_ip (s : State) (k : SineSel) (b : Bool) : (s.flagSine k b).ip = s.ip := by cases k <;> rfl
@[simp] theorem flagSine_acc (s : State) (k : SineSel) (b : Bool) : (s.flagSine k b).acc = s.acc := by cases k <;> rfl
@[simp] theorem flagSine_pacc (s : State) (k : SineSel) (b : Bool) : (s.flagSine k b).pacc = s.pacc :=
  by cases k <;> rfl
@[simp] theorem flagSine_lr (s : State) (k : SineSel) (b : Bool) : (s.flagSine k b).lr = s.lr := by cases k <;> rfl
@[simp] theorem flagSine_regs (s : State) (k : SineSel) (b : Bool) : (s.flagSine k b).regs = s.regs :=
  by cases k <;> rfl
@[simp] theorem flagSine_mem (s : State) (k : SineSel) (b : Bool) : (s.flagSine k b).mem = s.mem := by cases k <;> rfl
@[simp] theorem flagSine_dp (s : State) (k : SineSel) (b : Bool) : (s.flagSine k b).dp = s.dp := by cases k <;> rfl
@[simp] theorem flagSine_run (s : State) (k : SineSel) (b : Bool) : (s.flagSine k b).run = s.run := by cases k <;> rfl
@[simp] theorem flagSine_sin0 (s : State) (k : SineSel) (b : Bool) : (s.flagSine k b).sin0 = s.sin0 :=
  by cases k <;> rfl
@[simp] theorem flagSine_sin1 (s : State) (k : SineSel) (b : Bool) : (s.flagSine k b).sin1 = s.sin1 :=
  by cases k <;> rfl
@[simp] theorem flagSine_rmp0 (s : State) (k : SineSel) (b : Bool) : (s.flagSine k b).rmp0 = s.rmp0 :=
  by cases k <;> rfl
@[simp] theorem flagSine_rmp1 (s : State) (k : SineSel) (b : Bool) : (s.flagSine k b).rmp1 = s.rmp1 :=
  by cases k <;> rfl

/-! Fields under `flagRamp`. -/

@[simp] theorem flagRamp_cfg (s : State) (k : RampSel) (b : Bool) : (s.flagRamp k b).cfg = s.cfg := by cases k <;> rfl
@[simp] theorem flagRamp_program (s : State) (k : RampSel) (b : Bool) : (s.flagRamp k b).program = s.program :=
  by cases k <;> rfl
@[simp] theorem flagRamp_host (s : State) (k : RampSel) (b : Bool) : (s.flagRamp k b).host = s.host :=
  by cases k <;> rfl
@[simp] theorem flagRamp_phase (s : State) (k : RampSel) (b : Bool) : (s.flagRamp k b).phase = s.phase :=
  by cases k <;> rfl
@[simp] theorem flagRamp_steps (s : State) (k : RampSel) (b : Bool) : (s.flagRamp k b).steps = s.steps :=
  by cases k <;> rfl
@[simp] theorem flagRamp_ip (s : State) (k : RampSel) (b : Bool) : (s.flagRamp k b).ip = s.ip := by cases k <;> rfl
@[simp] theorem flagRamp_acc (s : State) (k : RampSel) (b : Bool) : (s.flagRamp k b).acc = s.acc := by cases k <;> rfl
@[simp] theorem flagRamp_pacc (s : State) (k : RampSel) (b : Bool) : (s.flagRamp k b).pacc = s.pacc :=
  by cases k <;> rfl
@[simp] theorem flagRamp_lr (s : State) (k : RampSel) (b : Bool) : (s.flagRamp k b).lr = s.lr := by cases k <;> rfl
@[simp] theorem flagRamp_regs (s : State) (k : RampSel) (b : Bool) : (s.flagRamp k b).regs = s.regs :=
  by cases k <;> rfl
@[simp] theorem flagRamp_mem (s : State) (k : RampSel) (b : Bool) : (s.flagRamp k b).mem = s.mem := by cases k <;> rfl
@[simp] theorem flagRamp_dp (s : State) (k : RampSel) (b : Bool) : (s.flagRamp k b).dp = s.dp := by cases k <;> rfl
@[simp] theorem flagRamp_run (s : State) (k : RampSel) (b : Bool) : (s.flagRamp k b).run = s.run := by cases k <;> rfl
@[simp] theorem flagRamp_sin0 (s : State) (k : RampSel) (b : Bool) : (s.flagRamp k b).sin0 = s.sin0 :=
  by cases k <;> rfl
@[simp] theorem flagRamp_sin1 (s : State) (k : RampSel) (b : Bool) : (s.flagRamp k b).sin1 = s.sin1 :=
  by cases k <;> rfl
@[simp] theorem flagRamp_rmp0 (s : State) (k : RampSel) (b : Bool) : (s.flagRamp k b).rmp0 = s.rmp0 :=
  by cases k <;> rfl
@[simp] theorem flagRamp_rmp1 (s : State) (k : RampSel) (b : Bool) : (s.flagRamp k b).rmp1 = s.rmp1 :=
  by cases k <;> rfl

/-! Fields under `countStep`. -/

@[simp] theorem countStep_cfg (s : State) : s.countStep.cfg = s.cfg := rfl
@[simp] theorem countStep_program (s : State) : s.countStep.program = s.program := rfl
@[simp] theorem countStep_host (s : State) : s.countStep.host = s.host := rfl
@[simp] theorem countStep_phase (s : State) : s.countStep.phase = s.phase := rfl
@[simp] theorem countStep_steps (s : State) : s.countStep.steps = s.steps + 1 := rfl
@[simp] theorem countStep_ip (s : State) : s.countStep.ip = s.ip := rfl
@[simp] theorem countStep_acc (s : State) : s.countStep.acc = s.acc := rfl
@[simp] theorem countStep_pacc (s : State) : s.countStep.pacc = s.pacc := rfl
@[simp] theorem countStep_lr (s : State) : s.countStep.lr = s.lr := rfl
@[simp] theorem countStep_regs (s : State) : s.countStep.regs = s.regs := rfl
@[simp] theorem countStep_mem (s : State) : s.countStep.mem = s.mem := rfl
@[simp] theorem countStep_dp (s : State) : s.countStep.dp = s.dp := rfl
@[simp] theorem countStep_run (s : State) : s.countStep.run = s.run := rfl
@[simp] theorem countStep_sin0 (s : State) : s.countStep.sin0 = s.sin0 := rfl
@[simp] theorem countStep_sin1 (s : State) : s.countStep.sin1 = s.sin1 := rfl
@[simp] theorem countStep_rmp0 (s : State) : s.countStep.rmp0 = s.rmp0 := rfl
@[simp] theorem countStep_rmp1 (s : State) : s.countStep.rmp1 = s.rmp1 := rfl
@[simp] theorem countStep_diag (s : State) : s.countStep.diag = s.diag := rfl

/-! Fields under `setRateSine`. -/

@[simp] theorem setRateSine_cfg (s : State) (k : SineSel) (r : Int) : (setRateSine k r s).cfg = s.cfg :=
  by cases k <;> rfl
@[simp] theorem setRateSine_program (s : State) (k : SineSel) (r : Int) : (setRateSine k r s).program = s.program :=
  by cases k <;> rfl
@[simp] theorem setRateSine_host (s : State) (k : SineSel) (r : Int) : (setRateSine k r s).host = s.host :=
  by cases k <;> rfl
@[simp] theorem setRateSine_phase (s : State) (k : SineSel) (r : Int) : (setRateSine k r s).phase = s.phase :=
  by cases k <;> rfl
@[simp] theorem setRateSine_steps (s : State) (k : SineSel) (r : Int) : (setRateSine k r s).steps = s.steps :=
  by cases k <;> rfl
@[simp] theorem setRateSine_ip (s : State) (k : SineSel) (r : Int) : (setRateSine k r s).ip = s.ip :=
  by cases k <;> rfl
@[simp] theorem setRateSine_acc (s : State) (k : SineSel) (r : Int) : (setRateSine k r s).acc = s.acc :=
  by cases k <;> rfl
@[simp] theorem setRateSine_pacc (s : State) (k : SineSel) (r : Int) : (setRateSine k r s).pacc = s.pacc :=
  by cases k <;> rfl
@[simp] theorem setRateSine_lr (s : State) (k : SineSel) (r : Int) : (setRateSine k r s).lr = s.lr :=
  by cases k <;> rfl
@[simp] theorem setRateSine_mem (s : State) (k : SineSel) (r : Int) : (setRateSine k r s).mem = s.mem :=
  by cases k <;> rfl
@[simp] theorem setRateSine_dp (s : State) (k : SineSel) (r : Int) : (setRateSine k r s).dp = s.dp :=
  by cases k <;> rfl
@[simp] theorem setRateSine_run (s : State) (k : SineSel) (r : Int) : (setRateSine k r s).run = s.run :=
  by cases k <;> rfl
@[simp] theorem setRateSine_rmp0 (s : State) (k : SineSel) (r : Int) : (setRateSine k r s).rmp0 = s.rmp0 :=
  by cases k <;> rfl
@[simp] theorem setRateSine_rmp1 (s : State) (k : SineSel) (r : Int) : (setRateSine k r s).rmp1 = s.rmp1 :=
  by cases k <;> rfl

/-! Fields under `setRangeSine`. -/

@[simp] theorem setRangeSine_cfg (s : State) (k : SineSel) (r : Int) : (setRangeSine k r s).cfg = s.cfg :=
  by cases k <;> rfl
@[simp] theorem setRangeSine_program (s : State) (k : SineSel) (r : Int) : (setRangeSine k r s).program = s.program :=
  by cases k <;> rfl
@[simp] theorem setRangeSine_host (s : State) (k : SineSel) (r : Int) : (setRangeSine k r s).host = s.host :=
  by cases k <;> rfl
@[simp] theorem setRangeSine_phase (s : State) (k : SineSel) (r : Int) : (setRangeSine k r s).phase = s.phase :=
  by cases k <;> rfl
@[simp] theorem setRangeSine_steps (s : State) (k : SineSel) (r : Int) : (setRangeSine k r s).steps = s.steps :=
  by cases k <;> rfl
@[simp] theorem setRangeSine_ip (s : State) (k : SineSel) (r : Int) : (setRangeSine k r s).ip = s.ip :=
  by cases k <;> rfl
@[simp] theorem setRangeSine_acc (s : State) (k : SineSel) (r : Int) : (setRangeSine k r s).acc = s.acc :=
  by cases k <;> rfl
@[simp] theorem setRangeSine_pacc (s : State) (k : SineSel) (r : Int) : (setRangeSine k r s).pacc = s.pacc :=
  by cases k <;> rfl
@[simp] theorem setRangeSine_lr (s : State) (k : SineSel) (r : Int) : (setRangeSine k r s).lr = s.lr :=
  by cases k <;> rfl
@[simp] theorem setRangeSine_mem (s : State) (k : SineSel) (r : Int) : (setRangeSine k r s).mem = s.mem :=
  by cases k <;> rfl
@[simp] theorem setRangeSine_dp (s : State) (k : SineSel) (r : Int) : (setRangeSine k r s).dp = s.dp :=
  by cases k <;> rfl
@[simp] theorem setRangeSine_run (s : State) (k : SineSel) (r : Int) : (setRangeSine k r s).run = s.run :=
  by cases k <;> rfl
@[simp] theorem setRangeSine_rmp0 (s : State) (k : SineSel) (r : Int) : (setRangeSine k r s).rmp0 = s.rmp0 :=
  by cases k <;> rfl
@[simp] theorem setRangeSine_rmp1 (s : State) (k : SineSel) (r : Int) : (setRangeSine k r s).rmp1 = s.rmp1 :=
  by cases k <;> rfl

/-! Fields under `setRateRamp`. -/

@[simp] theorem setRateRamp_cfg (s : State) (k : RampSel) (r : Int) : (setRateRamp k r s).cfg = s.cfg :=
  by cases k <;> rfl
@[simp] theorem setRateRamp_program (s : State) (k : RampSel) (r : Int) : (setRateRamp k r s).program = s.program :=
  by cases k <;> rfl
@[simp] theorem setRateRamp_host (s : State) (k : RampSel) (r : Int) : (setRateRamp k r s).host = s.host :=
  by cases k <;> rfl
@[simp] theorem setRateRamp_phase (s : State) (k : RampSel) (r : Int) : (setRateRamp k r s).phase = s.phase :=
  by cases k <;> rfl
@[simp] theorem setRateRamp_steps (s : State) (k : RampSel) (r : Int) : (setRateRamp k r s).steps = s.steps :=
  by cases k <;> rfl
@[simp] theorem setRateRamp_ip (s : State) (k : RampSel) (r : Int) : (setRateRamp k r s).ip = s.ip :=
  by cases k <;> rfl
@[simp] theorem setRateRamp_acc (s : State) (k : RampSel) (r : Int) : (setRateRamp k r s).acc = s.acc :=
  by cases k <;> rfl
@[simp] theorem setRateRamp_pacc (s : State) (k : RampSel) (r : Int) : (setRateRamp k r s).pacc = s.pacc :=
  by cases k <;> rfl
@[simp] theorem setRateRamp_lr (s : State) (k : RampSel) (r : Int) : (setRateRamp k r s).lr = s.lr :=
  by cases k <;> rfl
@[simp] theorem setRateRamp_mem (s : State) (k : RampSel) (r : Int) : (setRateRamp k r s).mem = s.mem :=
  by cases k <;> rfl
@[simp] theorem setRateRamp_dp (s : State) (k : RampSel) (r : Int) : (setRateRamp k r s).dp = s.dp :=
  by cases k <;> rfl
@[simp] theorem setRateRamp_run (s : State) (k : RampSel) (r : Int) : (setRateRamp k r s).run = s.run :=
  by cases k <;> rfl
@[simp] theorem setRateRamp_sin0 (s : State) (k : RampSel) (r : Int) : (setRateRamp k r s).sin0 = s.sin0 :=
  by cases k <;> rfl
@[simp] theorem setRateRamp_sin1 (s : State) (k : RampSel) (r : Int) : (setRateRamp k r s).sin1 = s.sin1 :=
  by cases k <;> rfl

/-! Fields under `setRangeRamp`. -/

@[simp] theorem setRangeRamp_cfg (s : State) (k : RampSel) (a : RampRange) : (setRangeRamp k a s).cfg = s.cfg :=
  by cases k <;> rfl
@[simp] theorem setRangeRamp_program (s : State) (k : RampSel) (a : RampRange) : (setRangeRamp k a s).program = s.program :=
  by cases k <;> rfl
@[simp] theorem setRangeRamp_host (s : State) (k : RampSel) (a : RampRange) : (setRangeRamp k a s).host = s.host :=
  by cases k <;> rfl
@[simp] theorem setRangeRamp_phase (s : State) (k : RampSel) (a : RampRange) : (setRangeRamp k a s).phase = s.phase :=
  by cases k <;> rfl
@[simp] theorem setRangeRamp_steps (s : State) (k : RampSel) (a : RampRange) : (setRangeRamp k a s).steps = s.steps :=
  by cases k <;> rfl
@[simp] theorem setRangeRamp_ip (s : State) (k : RampSel) (a : RampRange) : (setRangeRamp k a s).ip = s.ip :=
  by cases k <;> rfl
@[simp] theorem setRangeRamp_acc (s : State) (k : RampSel) (a : RampRange) : (setRangeRamp k a s).acc = s.acc :=
  by cases k <;> rfl
@[simp] theorem setRangeRamp_pacc (s : State) (k : RampSel) (a : RampRange) : (setRangeRamp k a s).pacc = s.pacc :=
  by cases k <;> rfl
@[simp] theorem setRangeRamp_lr (s : State) (k : RampSel) (a : RampRange) : (setRangeRamp k a s).lr = s.lr :=
  by cases k <;> rfl
@[simp] theorem setRangeRamp_mem (s : State) (k : RampSel) (a : RampRange) : (setRangeRamp k a s).mem = s.mem :=
  by cases k <;> rfl
@[simp] theorem setRangeRamp_dp (s : State) (k : RampSel) (a : RampRange) : (setRangeRamp k a s).dp = s.dp :=
  by cases k <;> rfl
@[simp] theorem setRangeRamp_run (s : State) (k : RampSel) (a : RampRange) : (setRangeRamp k a s).run = s.run :=
  by cases k <;> rfl
@[simp] theorem setRangeRamp_sin0 (s : State) (k : RampSel) (a : RampRange) : (setRangeRamp k a s).sin0 = s.sin0 :=
  by cases k <;> rfl
@[simp] theorem setRangeRamp_sin1 (s : State) (k : RampSel) (a : RampRange) : (setRangeRamp k a s).sin1 = s.sin1 :=
  by cases k <;> rfl
@[simp] theorem setRangeRamp_diag (s : State) (k : RampSel) (a : RampRange) : (setRangeRamp k a s).diag = s.diag :=
  by cases k <;> rfl

/-! Fields under `setRangeRampRaw`. -/

@[simp] theorem setRangeRampRaw_cfg (s : State) (k : RampSel) (r : Int) : (setRangeRampRaw k r s).cfg = s.cfg :=
  by cases k <;> rfl
@[simp] theorem setRangeRampRaw_program (s : State) (k : RampSel) (r : Int) : (setRangeRampRaw k r s).program = s.program :=
  by cases k <;> rfl
@[simp] theorem setRangeRampRaw_host (s : State) (k : RampSel) (r : Int) : (setRangeRampRaw k r s).host = s.host :=
  by cases k <;> rfl
@[simp] theorem setRangeRampRaw_phase (s : State) (k : RampSel) (r : Int) : (setRangeRampRaw k r s).phase = s.phase :=
  by cases k <;> rfl
@[simp] theorem setRangeRampRaw_steps (s : State) (k : RampSel) (r : Int) : (setRangeRampRaw k r s).steps = s.steps :=
  by cases k <;> rfl
@[simp] theorem setRangeRampRaw_ip (s : State) (k : RampSel) (r : Int) : (setRangeRampRaw k r s).ip = s.ip :=
  by cases k <;> rfl
@[simp] theorem setRangeRampRaw_acc (s : State) (k : RampSel) (r : Int) : (setRangeRampRaw k r s).acc = s.acc :=
  by cases k <;> rfl
@[simp] theorem setRangeRampRaw_pacc (s : State) (k : RampSel) (r : Int) : (setRangeRampRaw k r s).pacc = s.pacc :=
  by cases k <;> rfl
@[simp] theorem setRangeRampRaw_lr (s : State) (k : RampSel) (r : Int) : (setRangeRampRaw k r s).lr = s.lr :=
  by cases k <;> rfl
@[simp] theorem setRangeRampRaw_mem (s : State) (k : RampSel) (r : Int) : (setRangeRampRaw k r s).mem = s.mem :=
  by cases k <;> rfl
@[simp] theorem setRangeRampRaw_dp (s : State) (k : RampSel) (r : Int) : (setRangeRampRaw k r s).dp = s.dp :=
  by cases k <;> rfl
@[simp] theorem setRangeRampRaw_run (s : State) (k : RampSel) (r : Int) : (setRangeRampRaw k r s).run = s.run :=
  by cases k <;> rfl
@[simp] theorem setRangeRampRaw_sin0 (s : State) (k : RampSel) (r : Int) : (setRangeRampRaw k r s).sin0 = s.sin0 :=
  by cases k <;> rfl
@[simp] theorem setRangeRampRaw_sin1 (s : State) (k : RampSel) (r : Int) : (setRangeRampRaw k r s).sin1 = s.sin1 :=
  by cases k <;> rfl

/-! Fields under `zeroRamp`. -/

@[simp] theorem zeroRamp_cfg (s : State) (k : RampSel) : (zeroRamp k s).cfg = s.cfg := by cases k <;> rfl
@[simp] theorem zeroRamp_program (s : State) (k : RampSel) : (zeroRamp k s).program = s.program := by cases k <;> rfl
@[simp] theorem zeroRamp_host (s : State) (k : RampSel) : (zeroRamp k s).host = s.host := by cases k <;> rfl
@[simp] theorem zeroRamp_phase (s : State) (k : RampSel) : (zeroRamp k s).phase = s.phase := by cases k <;> rfl
@[simp] theorem zeroRamp_steps (s : State) (k : RampSel) : (zeroRamp k s).steps = s.steps := by cases k <;> rfl
@[simp] theorem zeroRamp_ip (s : State) (k : RampSel) : (zeroRamp k s).ip = s.ip := by cases k <;> rfl
@[simp] theorem zeroRamp_acc (s : State) (k : RampSel) : (zeroRamp k s).acc = s.acc := by cases k <;> rfl
@[simp] theorem zeroRamp_pacc (s : State) (k : RampSel) : (zeroRamp k s).pacc = s.pacc := by cases k <;> rfl
@[simp] theorem zeroRamp_lr (s : State) (k : RampSel) : (zeroRamp k s).lr = s.lr := by cases k <;> rfl
@[simp] theorem zeroRamp_regs (s : State) (k : RampSel) : (zeroRamp k s).regs = s.regs := by cases k <;> rfl
@[simp] theorem zeroRamp_mem (s : State) (k : RampSel) : (zeroRamp k s).mem = s.mem := by cases k <;> rfl
@[simp] theorem zeroRamp_dp (s : State) (k : RampSel) : (zeroRamp k s).dp = s.dp := by cases k <;> rfl
@[simp] theorem zeroRamp_run (s : State) (k : RampSel) : (zeroRamp k s).run = s.run := by cases k <;> rfl
@[simp] theorem zeroRamp_sin0 (s : State) (k : RampSel) : (zeroRamp k s).sin0 = s.sin0 := by cases k <;> rfl
@[simp] theorem zeroRamp_sin1 (s : State) (k : RampSel) : (zeroRamp k s).sin1 = s.sin1 := by cases k <;> rfl
@[simp] theorem zeroRamp_diag (s : State) (k : RampSel) : (zeroRamp k s).diag = s.diag := by cases k <;> rfl

/-! Fields under `regWrite`. -/

@[simp] theorem regWrite_cfg (s : State) (a : RegAddr) (v : Fixed) : (regWrite a v s).cfg = s.cfg :=
  by unfold regWrite; split <;> simp
@[simp] theorem regWrite_program (s : State) (a : RegAddr) (v : Fixed) : (regWrite a v s).program = s.program :=
  by unfold regWrite; split <;> simp
@[simp] theorem regWrite_host (s : State) (a : RegAddr) (v : Fixed) : (regWrite a v s).host = s.host :=
  by unfold regWrite; split <;> simp
@[simp] theorem regWrite_phase (s : State) (a : RegAddr) (v : Fixed) : (regWrite a v s).phase = s.phase :=
  by unfold regWrite; split <;> simp
@[simp] theorem regWrite_steps (s : State) (a : RegAddr) (v : Fixed) : (regWrite a v s).steps = s.steps :=
  by unfold regWrite; split <;> simp
@[simp] theorem regWrite_ip (s : State) (a : RegAddr) (v : Fixed) : (regWrite a v s).ip = s.ip :=
  by unfold regWrite; split <;> simp
@[simp] theorem regWrite_acc (s : State) (a : RegAddr) (v : Fixed) : (regWrite a v s).acc = s.acc :=
  by unfold regWrite; split <;> simp
@[simp] theorem regWrite_pacc (s : State) (a : RegAddr) (v : Fixed) : (regWrite a v s).pacc = s.pacc :=
  by unfold regWrite; split <;> simp
@[simp] theorem regWrite_lr (s : State) (a : RegAddr) (v : Fixed) : (regWrite a v s).lr = s.lr :=
  by unfold regWrite; split <;> simp
@[simp] theorem regWrite_mem (s : State) (a : RegAddr) (v : Fixed) : (regWrite a v s).mem = s.mem :=
  by unfold regWrite; split <;> simp
@[simp] theorem regWrite_dp (s : State) (a : RegAddr) (v : Fixed) : (regWrite a v s).dp = s.dp :=
  by unfold regWrite; split <;> simp
@[simp] theorem regWrite_run (s : State) (a : RegAddr) (v : Fixed) : (regWrite a v s).run = s.run :=
  by unfold regWrite; split <;> simp

/-! Fields under `advanceAll`. -/

@[simp] theorem advanceAll_cfg (s : State) : (advanceAll s).cfg = s.cfg := rfl
@[simp] theorem advanceAll_program (s : State) : (advanceAll s).program = s.program := rfl
@[simp] theorem advanceAll_host (s : State) : (advanceAll s).host = s.host := rfl
@[simp] theorem advanceAll_phase (s : State) : (advanceAll s).phase = s.phase := rfl
@[simp] theorem advanceAll_steps (s : State) : (advanceAll s).steps = s.steps := rfl
@[simp] theorem advanceAll_ip (s : State) : (advanceAll s).ip = s.ip := rfl
@[simp] theorem advanceAll_acc (s : State) : (advanceAll s).acc = s.acc := rfl
@[simp] theorem advanceAll_pacc (s : State) : (advanceAll s).pacc = s.pacc := rfl
@[simp] theorem advanceAll_lr (s : State) : (advanceAll s).lr = s.lr := rfl
@[simp] theorem advanceAll_regs (s : State) : (advanceAll s).regs = s.regs := rfl
@[simp] theorem advanceAll_mem (s : State) : (advanceAll s).mem = s.mem := rfl
@[simp] theorem advanceAll_dp (s : State) : (advanceAll s).dp = s.dp := rfl
@[simp] theorem advanceAll_run (s : State) : (advanceAll s).run = s.run := rfl
@[simp] theorem advanceAll_sin0 (s : State) : (advanceAll s).sin0 = s.sin0.advance := rfl
@[simp] theorem advanceAll_sin1 (s : State) : (advanceAll s).sin1 = s.sin1.advance := rfl
@[simp] theorem advanceAll_rmp0 (s : State) : (advanceAll s).rmp0 = s.rmp0.advance := rfl
@[simp] theorem advanceAll_rmp1 (s : State) : (advanceAll s).rmp1 = s.rmp1.advance := rfl
@[simp] theorem advanceAll_diag (s : State) : (advanceAll s).diag = s.diag := rfl

/-! The oscillators and slots under their own updates. -/

@[simp] theorem sine_setSine_same (s : State) (k : SineSel) (o : SineOsc) : (s.setSine k o).sine k = o := by
  cases k <;> rfl

theorem sine_setSine_ne (s : State) (k j : SineSel) (o : SineOsc) (h : j ≠ k) : (s.setSine k o).sine j = s.sine j := by
  cases k <;> cases j <;> first | rfl | exact absurd rfl h

@[simp] theorem ramp_setRamp_same (s : State) (k : RampSel) (o : RampOsc) : (s.setRamp k o).ramp k = o := by
  cases k <;> rfl

theorem ramp_setRamp_ne (s : State) (k j : RampSel) (o : RampOsc) (h : j ≠ k) : (s.setRamp k o).ramp j = s.ramp j := by
  cases k <;> cases j <;> first | rfl | exact absurd rfl h

@[simp] theorem reg_setReg_same (s : State) (a : RegAddr) (v : Word) : (s.setReg a v).reg a = v := by
  simp [State.reg]

theorem reg_setReg_ne (s : State) (a b : RegAddr) (v : Word) (h : b ≠ a) : (s.setReg a v).reg b = s.reg b := by
  have hn : a.toNat ≠ b.toNat := fun hab => h (BitVec.eq_of_toNat_eq hab.symm)
  simp [State.reg, hn]

end Sys2Proof.Machine
end

