-- ==== Sys2Proof/Laws/Oscillators.lean ====
section
/-! SUPPORT. What the oscillator operations can do: the ranges of an advance, the ranges of the live values, and what
each setter leaves in its oscillator and in the register slots. -/

namespace Sys2Proof.Machine

theorem clampInt_bounds (lo hi v : Int) (h : lo ≤ hi) : lo ≤ clampInt lo hi v ∧ clampInt lo hi v ≤ hi := by
  simp only [clampInt]
  omega

/-- `outside` is the negation of the range it names. -/
theorem outside_iff (lo hi v : Int) : outside lo hi v = true ↔ v < lo ∨ hi < v := by simp [outside]

/-- A value inside the range is its own clamp. -/
theorem clampInt_of_inside (lo hi v : Int) (h : outside lo hi v = false) : clampInt lo hi v = v := by
  have hn : ¬ (v < lo ∨ hi < v) := by rw [← outside_iff, h]; decide
  simp only [clampInt]
  omega

/-- A ramp counter after an advance is the modular sum (R206). -/
theorem advanceCounter_val (c : Nat) (kr : Int) :
    ((advanceCounter c kr : Nat) : Int) = ((c : Int) - kr / 4) % 2147483648 := by
  simp only [advanceCounter, asr, rampMax]
  rw [Int.toNat_of_nonneg (Int.emod_nonneg _ (by norm_num))]
  norm_num

/-- A ramp counter stays in its range (R205). -/
theorem advanceCounter_le (c : Nat) (kr : Int) : advanceCounter c kr ≤ rampMax := by
  have := advanceCounter_val c kr
  simp only [rampMax]
  omega

/-- A rate in range adds a non-negative angle of at most 2^-8 (R201). -/
theorem sinDelta_bounds (kf : Nat) (h : kf ≤ sineRateMax) :
    0 ≤ (sinDelta kf).units ∧ (sinDelta kf).units ≤ ((1 * 2 ^ 184 : Nat) : Int) := by
  refine ⟨Real64.ofRatio_nonneg kf (2 ^ 17), roundQuot_le _ _ 1 184 (by norm_num) (by norm_num) ?_⟩
  have h2 : realOne * kf ≤ realOne * 512 := Nat.mul_le_mul_left _ (le_trans h (by decide))
  have h3 : realOne * 512 = 2 ^ 17 * (1 * 2 ^ 184) := by decide +kernel
  have h4 := Int.ofNat_le.mpr (le_of_le_of_eq h2 h3)
  rwa [Int.natCast_mul] at h4

/-- A difference of ordered values whose exact value is at most 2.0 rounds into [0, 2.0]. -/
theorem Real64.sub_bounds (x p : Real64) (h : p.units ≤ x.units)
    (hx : x.units - p.units ≤ ((1 * (1 * 2 ^ 193) : Nat) : Int)) :
    0 ≤ (x.sub p).units ∧ (x.sub p).units ≤ ((1 * 2 ^ 193 : Nat) : Int) :=
  ⟨roundQuot_nonneg _ _ (by omega), roundQuot_le _ _ 1 193 (by norm_num) (by norm_num) hx⟩

/-- An angle in [0, 2π) stays in [0, 2π) under an advance (R201). -/
theorem advanceAngle_bounds (a : Real64) (kf : Nat) (h : kf ≤ sineRateMax) (h0 : 0 ≤ a.units)
    (h1 : a.units < Real64.twoPi.units) :
    0 ≤ (advanceAngle a kf).units ∧ (advanceAngle a kf).units < Real64.twoPi.units := by
  have hd := sinDelta_bounds kf h
  have hpi : Real64.twoPi.units + ((1 * 2 ^ 184 : Nat) : Int) ≤ ((1 * (1 * 2 ^ 195) : Nat) : Int) := by decide +kernel
  have hb : ((1 * 2 ^ 195 : Nat) : Int) - Real64.twoPi.units ≤ ((1 * (1 * 2 ^ 193) : Nat) : Int) := by decide +kernel
  have hc : ((1 * 2 ^ 193 : Nat) : Int) < Real64.twoPi.units := by decide +kernel
  simp only [advanceAngle]
  generalize Real64.twoPi = p at *
  have hsum0 : 0 ≤ (a.add (sinDelta kf)).units := roundQuot_nonneg _ _ (by omega)
  have hsum1 : (a.add (sinDelta kf)).units ≤ ((1 * 2 ^ 195 : Nat) : Int) :=
    roundQuot_le _ _ 1 195 (by norm_num) (by norm_num) (by omega)
  generalize a.add (sinDelta kf) = x at *
  split
  · rename_i hlt
    simp only [Real64.lt, decide_eq_true_eq] at hlt
    exact ⟨hsum0, hlt⟩
  · rename_i hlt
    simp only [Real64.lt, decide_eq_true_eq] at hlt
    have hs := Real64.sub_bounds x p (by omega) (by omega)
    exact ⟨hs.1, by omega⟩

/-- The amplitude factor of a sine oscillator in range lies in [0, 1] (R202). -/
theorem sinAmpNorm_inUnit (ka : Nat) (h : ka ≤ sineRangeMax) : (sinAmpNorm ka).inUnit = true :=
  Real64.ofRatio_inUnit ka 32767 (by norm_num) h

/-- The live sine values of an oscillator in range lie in [-1, 1] (R211). -/
theorem SineOsc.liveSin_inUnit (o : SineOsc) (h : o.range ≤ sineRangeMax) : o.liveSin.inUnit = true :=
  Real64.mul_inUnit _ _ (Real64.sin_inUnit _) (sinAmpNorm_inUnit _ h)

theorem SineOsc.liveCos_inUnit (o : SineOsc) (h : o.range ≤ sineRangeMax) : o.liveCos.inUnit = true :=
  Real64.mul_inUnit _ _ (Real64.cos_inUnit _) (sinAmpNorm_inUnit _ h)

/-- The live value of a ramp with the divisor written out (R207). -/
theorem RampOsc.live_eq (o : RampOsc) : o.live = Real64.ofRatio o.counter 4294967294 := rfl

/-- The live value of a ramp in range lies in [0, 0.5] (R207). -/
theorem RampOsc.live_bounds (o : RampOsc) (h : o.counter ≤ rampMax) :
    0 ≤ o.live.units ∧ o.live.units ≤ ((1 * 2 ^ 191 : Nat) : Int) := by
  refine ⟨Real64.ofRatio_nonneg o.counter _, roundQuot_le _ _ 1 191 (by decide) (by norm_num) ?_⟩
  have h2 : realOne * o.counter ≤ realOne * rampMax := Nat.mul_le_mul_left _ h
  have h3 : realOne * rampMax = 2 * rampMax * (1 * 2 ^ 191) := by decide +kernel
  have h4 := Int.ofNat_le.mpr (le_of_le_of_eq h2 h3)
  rwa [Int.natCast_mul] at h4

@[simp] theorem refresh_angle (o : SineOsc) : o.refresh.angle = o.angle := by
  simp only [SineOsc.refresh]
@[simp] theorem refresh_rate (o : SineOsc) : o.refresh.rate = o.rate := by
  simp only [SineOsc.refresh]
@[simp] theorem refresh_range (o : SineOsc) : o.refresh.range = o.range := by
  simp only [SineOsc.refresh]
@[simp] theorem refresh_storedSin (o : SineOsc) : o.refresh.storedSin = o.refresh.liveSin := by
  simp only [SineOsc.refresh, SineOsc.liveSin]
@[simp] theorem refresh_storedCos (o : SineOsc) : o.refresh.storedCos = o.refresh.liveCos := by
  simp only [SineOsc.refresh, SineOsc.liveCos]
@[simp] theorem sine_advance_rate (o : SineOsc) : o.advance.rate = o.rate := by
  simp only [SineOsc.advance, SineOsc.refresh]
@[simp] theorem sine_advance_range (o : SineOsc) : o.advance.range = o.range := by
  simp only [SineOsc.advance, SineOsc.refresh]
@[simp] theorem sine_advance_angle (o : SineOsc) : o.advance.angle = advanceAngle o.angle o.rate := by
  simp only [SineOsc.advance, SineOsc.refresh]
@[simp] theorem ramp_refresh_counter (o : RampOsc) : o.refresh.counter = o.counter := by
  simp only [RampOsc.refresh]
@[simp] theorem ramp_refresh_rate (o : RampOsc) : o.refresh.rate = o.rate := by
  simp only [RampOsc.refresh]
@[simp] theorem ramp_refresh_range (o : RampOsc) : o.refresh.range = o.range := by
  simp only [RampOsc.refresh]
@[simp] theorem ramp_refresh_stored (o : RampOsc) : o.refresh.stored = o.refresh.live := by
  simp only [RampOsc.refresh, RampOsc.live]
@[simp] theorem ramp_advance_counter (o : RampOsc) : o.advance.counter = advanceCounter o.counter o.rate := by
  simp only [RampOsc.advance, RampOsc.refresh]
@[simp] theorem ramp_advance_rate (o : RampOsc) : o.advance.rate = o.rate := by
  simp only [RampOsc.advance, RampOsc.refresh]
@[simp] theorem ramp_advance_range (o : RampOsc) : o.advance.range = o.range := by
  simp only [RampOsc.advance, RampOsc.refresh]

@[simp] theorem sine_setReg (s : State) (a : RegAddr) (v : Word) (k : SineSel) : (s.setReg a v).sine k = s.sine k := by
  cases k <;> rfl

@[simp] theorem ramp_setReg (s : State) (a : RegAddr) (v : Word) (k : RampSel) : (s.setReg a v).ramp k = s.ramp k := by
  cases k <;> rfl

@[simp] theorem sine_flagSine (s : State) (j k : SineSel) (b : Bool) : (s.flagSine j b).sine k = s.sine k := by
  cases j <;> cases k <;> rfl

@[simp] theorem ramp_flagSine (s : State) (j : SineSel) (k : RampSel) (b : Bool) : (s.flagSine j b).ramp k = s.ramp k := by
  cases j <;> cases k <;> rfl

@[simp] theorem sine_flagRamp (s : State) (j : RampSel) (k : SineSel) (b : Bool) : (s.flagRamp j b).sine k = s.sine k := by
  cases j <;> cases k <;> rfl

@[simp] theorem ramp_flagRamp (s : State) (j k : RampSel) (b : Bool) : (s.flagRamp j b).ramp k = s.ramp k := by
  cases j <;> cases k <;> rfl

@[simp] theorem ramp_setSine (s : State) (j : SineSel) (k : RampSel) (o : SineOsc) :
    (s.setSine j o).ramp k = s.ramp k := by
  cases j <;> cases k <;> rfl

@[simp] theorem sine_setRamp (s : State) (j : RampSel) (k : SineSel) (o : RampOsc) :
    (s.setRamp j o).sine k = s.sine k := by
  cases j <;> cases k <;> rfl

/-- What `setRate_sin` leaves: the clamped rate in the oscillator and in its slot, every other slot as before (R203). -/
theorem setRateSine_effect (k : SineSel) (raw : Int) (s : State) :
    (setRateSine k raw s).sine k = { s.sine k with rate := (clampInt 0 sineRateMax raw).toNat } ∧
    (setRateSine k raw s).reg (sineRateSlot k) = BitVec.ofInt 32 (clampInt 0 sineRateMax raw) ∧
    ∀ b, b ≠ sineRateSlot k → (setRateSine k raw s).reg b = s.reg b := by
  refine ⟨by simp [setRateSine], by simp [setRateSine], fun b hb => ?_⟩
  rw [setRateSine, reg_setReg_ne _ _ _ _ hb]
  simp [State.reg]

/-- What `setAmplitude_sin` leaves: the clamped amplitude in the oscillator, whose stored values are refreshed, and in
its slot, every other slot as before (R204). -/
theorem setRangeSine_effect (k : SineSel) (raw : Int) (s : State) :
    (setRangeSine k raw s).sine k = { s.sine k with range := (clampInt 0 sineRangeMax raw).toNat }.refresh ∧
    (setRangeSine k raw s).reg (sineRangeSlot k) = BitVec.ofInt 32 (clampInt 0 sineRangeMax raw) ∧
    ∀ b, b ≠ sineRangeSlot k → (setRangeSine k raw s).reg b = s.reg b := by
  refine ⟨by simp [setRangeSine], by simp [setRangeSine], fun b hb => ?_⟩
  rw [setRangeSine, reg_setReg_ne _ _ _ _ hb]
  simp [State.reg]

/-- What `setRate_rmp` leaves: the clamped rate in the oscillator and in its slot, every other slot as before (R208). -/
theorem setRateRamp_effect (k : RampSel) (raw : Int) (s : State) :
    (setRateRamp k raw s).ramp k = { s.ramp k with rate := clampInt rampRateMin rampRateMax raw } ∧
    (setRateRamp k raw s).reg (rampRateSlot k) = BitVec.ofInt 32 (clampInt rampRateMin rampRateMax raw) ∧
    ∀ b, b ≠ rampRateSlot k → (setRateRamp k raw s).reg b = s.reg b := by
  refine ⟨by simp [setRateRamp], by simp [setRateRamp], fun b hb => ?_⟩
  rw [setRateRamp, reg_setReg_ne _ _ _ _ hb]
  simp [State.reg]

/-- What a ramp amplitude write leaves: the step in the oscillator and in its slot, every other slot as before (R209). -/
theorem setRangeRamp_effect (k : RampSel) (a : RampRange) (s : State) :
    (setRangeRamp k a s).ramp k = { s.ramp k with range := a } ∧
    (setRangeRamp k a s).reg (rampRangeSlot k) = BitVec.ofNat 32 a.toNat ∧
    ∀ b, b ≠ rampRangeSlot k → (setRangeRamp k a s).reg b = s.reg b := by
  refine ⟨by simp [setRangeRamp], by simp [setRangeRamp], fun b hb => ?_⟩
  rw [setRangeRamp, reg_setReg_ne _ _ _ _ hb]
  simp [State.reg]

end Sys2Proof.Machine
end

