-- ==== Sys2Proof/Laws/ChoEval.lean ====
section
/-! SUPPORT. Why no check of a CHO evaluation fires on values in range: the ranges of each step's value, and what a check
answers for a value in [-1, 1] (R402 to R404). -/

namespace Sys2Proof.Machine

/-- A check passes a value in [-1, 1] unchanged and counts nothing (R404). -/
theorem checkInvariant_of_inUnit (policy : LfoInvariantPolicy) (n : Nat) (y : Real64) (h : y.inUnit = true) :
    checkInvariant policy n y = .ok (y, n) := by
  simp [checkInvariant, h]

theorem inUnit_of_half (y : Real64) (h0 : 0 ≤ y.units) (h1 : y.units ≤ ((1 * 2 ^ 191 : Nat) : Int)) :
    y.inUnit = true := by
  have hb : ((1 * 2 ^ 191 : Nat) : Int) ≤ realOne := by decide +kernel
  rw [Real64.inUnit_iff]
  omega

theorem neg_inUnit (y : Real64) (h : y.inUnit = true) : y.neg.inUnit = true := by
  rw [Real64.inUnit_iff] at h ⊢
  simp only [Real64.neg]
  omega

theorem quarter_units : (Real64.ofRatio 1 4).units = ((1 * 2 ^ 190 : Nat) : Int) := by decide +kernel

theorem half_units : (Real64.ofRatio 1 2).units = ((1 * 2 ^ 191 : Nat) : Int) := by decide +kernel

/-- RPTR2 takes a value in [0, 0.5] to a value in [0, 0.5] (R402). -/
theorem rptr2Value_bounds (v : Real64) (h0 : 0 ≤ v.units) (h1 : v.units ≤ ((1 * 2 ^ 191 : Nat) : Int)) :
    0 ≤ (rptr2Value v).units ∧ (rptr2Value v).units ≤ ((1 * 2 ^ 191 : Nat) : Int) := by
  have hq := quarter_units
  have hh := half_units
  have hs0 : 0 ≤ (v.add (Real64.ofRatio 1 4)).units := roundQuot_nonneg _ _ (by omega)
  have hs1 : (v.add (Real64.ofRatio 1 4)).units ≤ ((1 * 2 ^ 192 : Nat) : Int) :=
    roundQuot_le _ _ 1 192 (by norm_num) (by norm_num) (by omega)
  simp only [rptr2Value]
  split
  · rename_i hlt
    simp only [Real64.lt, decide_eq_true_eq] at hlt
    omega
  · rename_i hlt
    simp only [Real64.lt, decide_eq_true_eq] at hlt
    exact ⟨roundQuot_nonneg _ _ (by omega),
      roundQuot_le _ _ 1 191 (by norm_num) (by norm_num) (by omega)⟩

/-- The amplitude over 4096 lies in [0, 1]. -/
theorem rangeRatio_bounds (amp : RampRange) :
    0 ≤ (Real64.ofRatio amp.toNat 4096).units ∧ (Real64.ofRatio amp.toNat 4096).units ≤ realOne := by
  cases amp <;> decide +kernel

/-- COMPA takes a ramp value in [0, 0.5] into [-1, 1] (R402). -/
theorem rampCompa_inUnit (amp : RampRange) (v : Real64) (h0 : 0 ≤ v.units)
    (h1 : v.units ≤ ((1 * 2 ^ 191 : Nat) : Int)) : (rampCompa amp v).inUnit = true := by
  have hr := rangeRatio_bounds amp
  have hb : ((1 * 2 ^ 191 : Nat) : Int) ≤ realOne := by decide +kernel
  apply roundQuot_inUnit _ _ (by norm_num) <;> push_cast <;> omega

/-- 1 - y lies in [0, 1] for y in [0, 1]. -/
theorem one_sub_bounds (y : Real64) (h0 : 0 ≤ y.units) (h1 : y.units ≤ realOne) :
    0 ≤ (Real64.one.sub y).units ∧ (Real64.one.sub y).units ≤ realOne := by
  have hone : Real64.one.units = realOne := rfl
  have hin : (Real64.one.sub y).inUnit = true := by
    apply roundQuot_inUnit _ _ (by norm_num) <;> push_cast <;> omega
  rw [Real64.inUnit_iff] at hin
  exact ⟨roundQuot_nonneg _ _ (by omega), hin.2⟩

/-- The cross-fade value lies in [0, 1] (R404). -/
theorem xfade_bounds (v : Real64) : 0 ≤ (xfade v).units ∧ (xfade v).units ≤ realOne := by
  have hone : Real64.one.units = realOne := rfl
  have hzero : Real64.zero.units = 0 := rfl
  have hp := realOne_pos
  unfold xfade
  generalize ((Real64.ofInt 4).mul v).sub Real64.one = y
  have habs : 0 ≤ y.abs.units := Int.natCast_nonneg _
  have hle : (Real64.one.sub y.abs).units ≤ realOne := by
    rw [realOne_eq]
    refine roundQuot_le _ _ _ _ (by norm_num) (by norm_num) ?_
    rw [← realOne_eq]
    push_cast
    omega
  unfold Real64.max
  split
  · rename_i hlt
    simp only [Real64.lt, decide_eq_true_eq] at hlt
    omega
  · omega

theorem xfade_inUnit (v : Real64) : (xfade v).inUnit = true := by
  have h := xfade_bounds v
  rw [Real64.inUnit_iff]
  omega

end Sys2Proof.Machine
end

