-- ==== Sys2Proof/Laws/Engine.lean ====
section
/-! SUPPORT. What a step can do, said once: the inversion of the sample loop, of the host's turn and of the load. -/

namespace Sys2Proof.Machine

/-- A word that executes to a next state decodes to an instruction, and the next state is the instruction's with one more
step counted (R241). -/
theorem executeWord_next (w : Word) (s t : State) (h : executeWord w s = .next t) :
    ∃ i u, decodeWord w = .ok i ∧ exec i s = .next u ∧ t = u.countStep := by
  unfold executeWord at h
  split at h
  · cases h
  · rename_i i hi
    split at h
    · rename_i u hu
      cases h
      exact ⟨i, u, hi, hu, rfl⟩
    · cases h
    · cases h

/-- A word that decodes executes as its instruction. -/
theorem executeWord_eq (w : Word) (s : State) (i : Instr) (h : decodeWord w = .ok i) :
    executeWord w s = (match exec i s with
      | .next t => .next t.countStep
      | .fault e => .fault e
      | .refused r => .refused r) := by
  cases he : exec i s <;> simp [executeWord, h, he]

/-- An iteration of the sample loop that answers a next state ends the sample or runs the word at IP below the step
ceiling (R241, R249, R255). -/
theorem sampleStep_next (s t : State) (h : sampleStep s = .next t) :
    (fetch s = none ∧ t = leaveSample s) ∨
    (∃ w i u, fetch s = some w ∧ s.steps < maxStepsPerSample ∧ decodeWord w = .ok i ∧ exec i s = .next u ∧
      t = u.countStep) := by
  unfold sampleStep at h
  split at h
  · rename_i hf
    cases h
    exact .inl ⟨hf, rfl⟩
  · rename_i w hf
    split at h
    · cases h
    · rename_i hs
      obtain ⟨i, u, hi, hu, ht⟩ := executeWord_next w s t h
      exact .inr ⟨w, i, u, hf, by omega, hi, hu, ht⟩

/-- A load that answers a next state leaves the fresh state with the decoded program (R470). -/
theorem loadProgram_next (image : List Byte) (cfg : Config) (host : List HostCommand) (t : State)
    (h : loadProgram image cfg host = .next t) :
    ∃ program, decodeImage image = .ok program ∧ t = loadedState cfg program host := by
  unfold loadProgram at h
  split at h
  · rename_i p hp
    cases h
    exact ⟨p, hp, rfl⟩
  · cases h
  · cases h
  · cases h

/-- The host's turn: nothing pending, a frame, a reset of the diagnostics or a load (R455, R457, R470, R476). -/
theorem hostStep_next (s t : State) (h : hostStep s = .next t) :
    (s.host = [] ∧ t = s) ∨
    (∃ f rest, s.host = .frame f :: rest ∧ t = beginFrame f { s with host := rest }) ∨
    (∃ rest, s.host = .resetDiagnostics :: rest ∧ t = resetDiagnostics { s with host := rest }) ∨
    (∃ image rest program, s.host = .load image :: rest ∧ decodeImage image = .ok program ∧
      t = loadedState s.cfg program rest) := by
  unfold hostStep at h
  split at h
  · rename_i hh
    cases h
    exact .inl ⟨hh, rfl⟩
  · rename_i f rest hh
    cases h
    exact .inr (.inl ⟨f, rest, hh, rfl⟩)
  · rename_i rest hh
    cases h
    exact .inr (.inr (.inl ⟨rest, hh, rfl⟩))
  · rename_i image rest hh
    obtain ⟨program, hp, ht⟩ := loadProgram_next image s.cfg rest t h
    exact .inr (.inr (.inr ⟨image, rest, program, hh, hp, ht⟩))

/-- Every step that answers a next state is the host's turn or an iteration of the sample loop. -/
theorem step_next (s t : State) (h : step s = .next t) :
    (s.phase = .betweenSamples ∧ hostStep s = .next t) ∨ (s.phase = .inSample ∧ sampleStep s = .next t) := by
  unfold step engineStep at h
  split at h
  · rename_i hp
    exact .inl ⟨hp, h⟩
  · rename_i hp
    exact .inr ⟨hp, h⟩

end Sys2Proof.Machine
end

