-- ==== Sys2Proof/Laws/FixedPoint.lean ====
section
/-! SUPPORT. What each fixed-point primitive answers: the signed value of its result, its range and its flag. -/

namespace Sys2Proof.Machine

theorem clamp24_bounds (v : Int) : -8388608 ≤ clamp24 v ∧ clamp24 v ≤ 8388607 := by
  simp only [clamp24]
  omega

/-- The flag of a result is set exactly outside the 24-bit range (R161). -/
theorem outOfRange_iff (s : Int) : outOfRange s = true ↔ s < -8388608 ∨ 8388607 < s := by
  simp [outOfRange]

/-- A result inside the range is not changed by the clamp (R164). -/
theorem clamp24_of_inRange (s : Int) (h : outOfRange s = false) : clamp24 s = s := by
  have hn : ¬ (s < -8388608 ∨ 8388607 < s) := by rw [← outOfRange_iff, h]; decide
  simp only [clamp24]
  omega

theorem toInt_ofInt_of_bounds (v : Int) (hlo : -2147483648 ≤ v) (hhi : v ≤ 2147483647) :
    (BitVec.ofInt 32 v).toInt = v := by
  rw [BitVec.toInt_ofInt, Int.bmod_eq_of_le] <;> omega

/-- With clamping on, the value of a finished result is the saturated exact result (R162). -/
theorem finishRaw_clamped_toInt (s : Int) : (finishRaw true s).toInt = clamp24 s := by
  have h := clamp24_bounds s
  exact toInt_ofInt_of_bounds (clamp24 s) (by omega) (by omega)

/-- With clamping off, the value of a finished result is the exact result wrapped modulo 2^32 (R162). -/
theorem finishRaw_unclamped_toInt (s : Int) : (finishRaw false s).toInt = s.bmod 4294967296 := by
  simp [finishRaw, BitVec.toInt_ofInt]

@[simp] theorem finish_raw (clamp : Bool) (s : Int) (x : Fixed) : (finish clamp s x).raw = finishRaw clamp s := rfl
@[simp] theorem finish_ib (clamp : Bool) (s : Int) (x : Fixed) : (finish clamp s x).ib = x.ib := rfl
@[simp] theorem finish_fb (clamp : Bool) (s : Int) (x : Fixed) : (finish clamp s x).fb = x.fb := rfl
@[simp] theorem finish_ovf (clamp : Bool) (s : Int) (x : Fixed) : (finish clamp s x).ovf = outOfRange s := rfl

/-- With clamping on, every finished result lies in the 24-bit range (R164). -/
theorem finish_clamped_bounds (s : Int) (x : Fixed) :
    -8388608 ≤ (finish true s x).val ∧ (finish true s x).val ≤ 8388607 := by
  rw [Fixed.val, finish_raw, finishRaw_clamped_toInt]
  exact clamp24_bounds s

theorem fpAdd_clamped_val (a b : Fixed) : (fpAdd true a b).val = clamp24 (a.val + b.val) := finishRaw_clamped_toInt _
theorem fpSub_clamped_val (a b : Fixed) : (fpSub true a b).val = clamp24 (a.val - b.val) := finishRaw_clamped_toInt _
theorem fpMult_clamped_val (a b : Fixed) : (fpMult true a b).val = clamp24 (a.val * b.val / 2 ^ 23) :=
  finishRaw_clamped_toInt _
theorem fpAbs_clamped_val (a : Fixed) : (fpAbs true a).val = clamp24 a.val.natAbs := finishRaw_clamped_toInt _
theorem fpSat_clamped_val (a : Fixed) : (fpSat true a).val = clamp24 a.val := finishRaw_clamped_toInt _

@[simp] theorem ofRaw_val (r : Word) : (Fixed.ofRaw r).val = r.toInt := rfl
@[simp] theorem ofRaw_ovf (r : Word) : (Fixed.ofRaw r).ovf = false := rfl

/-- The value of a field in a held Q-format is its two's-complement reading at 23 fraction bits (R166). -/
theorem fromQ_val (i f : Nat) (r : BitVec (1 + i + f)) (hi : i ≤ 8) (hf : f ≤ 23) :
    (fromQ i f r).val = r.toInt * 2 ^ (23 - f) := by
  have hlo := BitVec.le_two_mul_toInt (x := r)
  have hhi := BitVec.two_mul_toInt_lt (x := r)
  have hpos : (0 : Int) < 2 ^ (23 - f) := by positivity
  have hpow : (2 : Int) ^ (1 + i + f) * 2 ^ (23 - f) ≤ 2 ^ 32 := by
    rw [← pow_add]
    exact pow_le_pow_right₀ (by norm_num) (by omega)
  apply toInt_ofInt_of_bounds <;> nlinarith

theorem coefS1_9_val (c : BitVec 11) : (coefS1_9 c).val = c.toInt * 16384 := fromQ_val 1 9 c (by decide) (by decide)
theorem coefS1_14_val (c : BitVec 16) : (coefS1_14 c).val = c.toInt * 512 := fromQ_val 1 14 c (by decide) (by decide)
theorem coefS4_11_val (c : BitVec 16) : (coefS4_11 c).val = c.toInt * 4096 := fromQ_val 4 11 c (by decide) (by decide)
theorem offsetS4_6_val (d : BitVec 11) : (offsetS4_6 d).val = d.toInt * 131072 := fromQ_val 4 6 d (by decide) (by decide)
theorem offsetS_10_val (d : BitVec 11) : (offsetS_10 d).val = d.toInt * 8192 := fromQ_val 0 10 d (by decide) (by decide)
theorem offsetS_15_val (d : BitVec 16) : (offsetS_15 d).val = d.toInt * 256 := fromQ_val 0 15 d (by decide) (by decide)

end Sys2Proof.Machine
end

