-- ==== Sys2Proof/Laws/LogExp.lean ====
section
/-! SUPPORT. The digits of log2 and the power series of exp: their bounds and their order, from which the order of the
LOG and EXP intermediates follows by the order of rounding. -/

namespace Sys2Proof.Machine

/-- The digits that follow `acc` neither lower it nor reach the next value of `acc`. -/
theorem logDigits_bounds (fuel m acc : Nat) :
    acc * 2 ^ fuel ≤ logDigits fuel m acc ∧ logDigits fuel m acc < (acc + 1) * 2 ^ fuel := by
  induction fuel generalizing m acc with
  | zero => simp [logDigits]
  | succ fuel ih =>
    simp only [logDigits]
    rw [Nat.pow_succ]
    split
    · have h := ih (m * m / 2 ^ realBits / 2) (2 * acc + 1)
      constructor <;> nlinarith [h.1, h.2, Nat.two_pow_pos fuel]
    · have h := ih (m * m / 2 ^ realBits) (2 * acc)
      constructor <;> nlinarith [h.1, h.2, Nat.two_pow_pos fuel]

/-- A larger value has digits that are not smaller. -/
theorem logDigits_mono (fuel m n acc : Nat) (h : m ≤ n) : logDigits fuel m acc ≤ logDigits fuel n acc := by
  induction fuel generalizing m n acc with
  | zero => exact le_refl _
  | succ fuel ih =>
    have hsq : m * m / 2 ^ realBits ≤ n * n / 2 ^ realBits := Nat.div_le_div_right (Nat.mul_le_mul h h)
    simp only [logDigits]
    split <;> split
    · exact ih _ _ _ (Nat.div_le_div_right hsq)
    · omega
    · have h1 := (logDigits_bounds fuel (m * m / 2 ^ realBits) (2 * acc)).2
      have h2 := (logDigits_bounds fuel (n * n / 2 ^ realBits / 2) (2 * acc + 1)).1
      omega
    · exact ih _ _ _ hsq

/-- The series never falls below the sum so far. -/
theorem expSeries_ge (p x fuel k term acc : Nat) : acc ≤ expSeries p x fuel k term acc := by
  induction fuel generalizing k term acc with
  | zero => exact le_refl _
  | succ fuel ih =>
    simp only [expSeries]
    exact le_trans (Nat.le_add_right _ _) (ih _ _ _)

/-- The series keeps the order of its argument, its term and its sum. -/
theorem expSeries_mono (p x y fuel k s t a b : Nat) (hxy : x ≤ y) (hst : s ≤ t) (hab : a ≤ b) :
    expSeries p x fuel k s a ≤ expSeries p y fuel k t b := by
  induction fuel generalizing k s t a b with
  | zero => exact hab
  | succ fuel ih =>
    simp only [expSeries]
    have hn : s * x / 2 ^ p / (k + 1) ≤ t * y / 2 ^ p / (k + 1) :=
      Nat.div_le_div_right (Nat.div_le_div_right (Nat.mul_le_mul hst hxy))
    exact ih _ _ _ _ _ hn (Nat.add_le_add hab hn)

/-- The fraction of a power of two is below 2: the series at ln 2 stays below 2. -/
theorem expSeries_lnTwo_lt : expSeries 250 lnTwo 60 0 (2 ^ 250) (2 ^ 250) < 2 ^ 251 := by decide +kernel

end Sys2Proof.Machine
end

