-- ==== Sys2Proof/Laws/Memory.lean ====
section
/-! SUPPORT. The laws of the delay memory: read after write, and the canonical form. -/

namespace Sys2Proof.Machine

theorem readCells_writeCells_same (l : List (Nat × DelayWord)) (i : Nat) (v : DelayWord) (lo : Nat)
    (h : cellsFrom lo l = true) : readCells (writeCells l i v) i = v := by
  have below : ∀ (l : List (Nat × DelayWord)) (lo : Nat), cellsFrom lo l = true → i < lo → readCells l i = blankWord := by
    intro l
    induction l with
    | nil => intros; rfl
    | cons p rest ih =>
      intro lo h hlt
      simp only [cellsFrom, Bool.and_eq_true, decide_eq_true_eq] at h
      have hne : i ≠ p.1 := by omega
      simp only [readCells, hne, if_false]
      exact ih _ h.2 (by omega)
  induction l generalizing lo with
  | nil => by_cases hv : v = blankWord <;> simp [writeCells, readCells, hv]
  | cons p rest ih =>
    simp only [cellsFrom, Bool.and_eq_true, decide_eq_true_eq] at h
    by_cases hlt : i < p.1
    · have hne : i ≠ p.1 := by omega
      by_cases hv : v = blankWord
      · simp only [writeCells, hlt, hv, if_true, readCells, hne, if_false]
        exact below rest _ h.2 (by omega)
      · simp [writeCells, hlt, hv, readCells]
    · by_cases he : i = p.1
      · by_cases hv : v = blankWord
        · simp only [writeCells, he, Nat.lt_irrefl, if_false, hv, if_true]
          exact he ▸ below rest _ h.2 (by omega)
        · simp [writeCells, he, hv, readCells]
      · simp only [writeCells, hlt, he, if_false, readCells]
        exact ih _ h.2

theorem readCells_writeCells_ne (l : List (Nat × DelayWord)) (i j : Nat) (v : DelayWord) (hij : j ≠ i) :
    readCells (writeCells l i v) j = readCells l j := by
  induction l with
  | nil => by_cases hv : v = blankWord <;> simp [writeCells, readCells, hv, hij]
  | cons p rest ih =>
    by_cases hlt : i < p.1
    · by_cases hv : v = blankWord <;> simp [writeCells, hlt, hv, readCells, hij]
    · by_cases he : i = p.1
      · by_cases hv : v = blankWord <;> simp [writeCells, hv, readCells, ← he, hij]
      · by_cases hj : j = p.1 <;> simp [writeCells, hlt, he, readCells, hj, ih]

theorem cellsFrom_mono (l : List (Nat × DelayWord)) (lo lo' : Nat) (hle : lo' ≤ lo) (h : cellsFrom lo l = true) :
    cellsFrom lo' l = true := by
  cases l with
  | nil => rfl
  | cons p rest =>
    simp only [cellsFrom, Bool.and_eq_true, decide_eq_true_eq] at h ⊢
    exact ⟨⟨⟨by omega, h.1.1.2⟩, h.1.2⟩, h.2⟩

theorem cellsFrom_writeCells (l : List (Nat × DelayWord)) (lo i : Nat) (v : DelayWord) (h : cellsFrom lo l = true)
    (hlo : lo ≤ i) (hi : i < delaySize) : cellsFrom lo (writeCells l i v) = true := by
  induction l generalizing lo with
  | nil =>
    by_cases hv : v = blankWord
    · simp [writeCells, hv, cellsFrom]
    · simp [writeCells, hv, cellsFrom, hlo, hi]
  | cons p rest ih =>
    have hp := h
    simp only [cellsFrom, Bool.and_eq_true, decide_eq_true_eq] at h
    by_cases hlt : i < p.1
    · by_cases hv : v = blankWord
      · simpa [writeCells, hlt, hv] using hp
      · simp only [writeCells, hlt, hv, if_true, if_false, cellsFrom, Bool.and_eq_true, decide_eq_true_eq]
        exact ⟨⟨⟨hlo, hi⟩, by simpa using hv⟩, ⟨⟨by omega, h.1.1.2⟩, h.1.2⟩, h.2⟩
    · by_cases he : i = p.1
      · by_cases hv : v = blankWord
        · simp only [writeCells, hlt, if_false, if_pos he, if_pos hv]
          exact cellsFrom_mono rest _ _ (by omega) h.2
        · simp only [writeCells, hlt, if_false, if_pos he, if_neg hv, cellsFrom, Bool.and_eq_true, decide_eq_true_eq]
          exact ⟨⟨⟨hlo, hi⟩, by simpa using hv⟩, he ▸ h.2⟩
      · simp only [writeCells, hlt, he, if_false, cellsFrom, Bool.and_eq_true, decide_eq_true_eq]
        exact ⟨h.1, ih _ h.2 (by omega)⟩

/-- A read of the index just written gives the value written (R83). -/
theorem Memory.read_write_same (m : Memory) (i : Nat) (v : DelayWord) (h : m.wf = true) : (m.write i v).read i = v :=
  readCells_writeCells_same m.cells i v 0 h

/-- A write leaves every other index alone (R72). -/
theorem Memory.read_write_ne (m : Memory) (i j : Nat) (v : DelayWord) (hij : j ≠ i) :
    (m.write i v).read j = m.read j := readCells_writeCells_ne m.cells i j v hij

/-- A write inside the delay memory keeps the canonical form. -/
theorem Memory.write_wf (m : Memory) (i : Nat) (v : DelayWord) (h : m.wf = true) (hi : i < delaySize) :
    (m.write i v).wf = true := cellsFrom_writeCells m.cells 0 i v h (Nat.zero_le i) hi

/-- The reset memory has the canonical form. -/
theorem reset_mem_wf : State.reset.mem.wf = true := rfl

/-- Every effective delay index is inside the delay memory (R74). -/
theorem delayIndex_lt (s : State) (a : Int) : delayIndex s a < delaySize := Nat.mod_lt _ (by decide)

end Sys2Proof.Machine
end

