-- ==== Sys2Proof/Laws/Ops.lean ====
section
/-! SUPPORT. What each shared operation can do, said once: the register write by the role of its slot, the delay read and
write, and the capture with its result. -/

namespace Sys2Proof.Machine

/-- The value ACC holds after an instruction is the last result, and the count of out-of-range results is added (R251). -/
theorem capture_finish_eq (s : State) (results : List Fixed) (v : Fixed) :
    s.capturePacc.finishAcc results v = { s with
      acc := ⟨v.raw, 8, 23, v.ovf⟩
      pacc := s.acc
      ip := s.ip + 1
      diag := { s.diag with
        paccOverflows := s.diag.paccOverflows + s.acc.ovf.toNat
        accOverflows := s.diag.accOverflows + results.countP (·.ovf) } } := rfl

/-- The effective index of a base address inside the delay memory (R74). -/
theorem delayIndex_of_inRange (s : State) (a : Nat) (h : a < 32768) :
    delayIndex s (a : Int) = (a + s.dp) % 32768 := by
  simp only [delayIndex, clampBase, clampInt, delaySize]
  congr 2
  omega

/-- A base address counts as out of bounds exactly outside the delay memory (R74). -/
theorem baseOob_iff (a : Int) : baseOob a = true ↔ a < 0 ∨ 32768 ≤ a := by
  simp only [baseOob, delaySize, Bool.or_eq_true, decide_eq_true_eq]
  norm_num

/-- LR after a delay read holds the word's signed value (R78). -/
theorem ofDelayWord_val (w : DelayWord) : (ofDelayWord w).val = w.toInt := by
  show (fromQ 0 23 w).val = _
  rw [fromQ_val 0 23 w (by decide) (by decide)]
  simp

/-- A delay write stores the low 24 bits of ACC at the effective index (R72, R77). -/
theorem delayWrite_read_same (s : State) (a : Int) (h : s.mem.wf = true) :
    (s.delayWrite a).mem.read (delayIndex s a) = (toQ s.acc 0 23).1 :=
  Memory.read_write_same _ _ _ h

/-- A delay write leaves every other index alone (R72). -/
theorem delayWrite_read_ne (s : State) (a : Int) (j : Nat) (h : j ≠ delayIndex s a) :
    (s.delayWrite a).mem.read j = s.mem.read j :=
  Memory.read_write_ne _ _ _ _ h

/-- A delay write keeps the canonical form of the memory. -/
theorem delayWrite_wf (s : State) (a : Int) (h : s.mem.wf = true) : (s.delayWrite a).mem.wf = true :=
  Memory.write_wf _ _ _ h (delayIndex_lt s a)

/-- A register write changes no other slot (R333). -/
theorem regWrite_reg_ne (a b : RegAddr) (v : Fixed) (s : State) (h : b ≠ a) : (regWrite a v s).reg b = s.reg b := by
  have slots : ∀ a : RegAddr,
      (∀ k, slotRole a = .sineRate k → a = sineRateSlot k) ∧ (∀ k, slotRole a = .sineRange k → a = sineRangeSlot k) ∧
      (∀ k, slotRole a = .rampRate k → a = rampRateSlot k) ∧ (∀ k, slotRole a = .rampRange k → a = rampRangeSlot k) := by
    intro a
    refine ⟨?_, ?_, ?_, ?_⟩ <;> intro k hk <;> cases k <;> revert a <;> decide
  obtain ⟨h1, h2, h3, h4⟩ := slots a
  unfold regWrite
  split <;> rename_i hr
  · exact (setRateSine_effect _ _ s).2.2 b (h1 _ hr ▸ h)
  · exact (setRangeSine_effect _ _ s).2.2 b (h2 _ hr ▸ h)
  · exact (setRateRamp_effect _ _ s).2.2 b (h3 _ hr ▸ h)
  · rw [setRangeRampRaw, (setRangeRamp_effect _ _ _).2.2 b (h4 _ hr ▸ h)]
    rename_i k
    cases k <;> rfl
  · exact reg_setReg_ne s a b v.raw h
  · exact reg_setReg_ne s a b v.raw h
  · exact reg_setReg_ne s a b v.raw h

end Sys2Proof.Machine
end

