-- ==== Sys2Proof/Laws/PerInstr.lean ====
section
/-! SUPPORT. The per-instruction family: the canonical word of a well-formed instruction carries the instruction's opcode
in bits [4:0] (R100, R103). -/

namespace Sys2Proof.Laws

/-- The opcode of an instruction's word (R103); an alias has the opcode of the instruction it names (R119). -/
def opcodeNumber : Instr → BitVec 5
  | .rda _ _ => 0x00
  | .rmpa _ => 0x01
  | .wra _ _ => 0x02
  | .wrap _ _ => 0x03
  | .rdax _ _ => 0x04
  | .rdfx _ _ => 0x05
  | .ldax => 0x05
  | .wrax _ _ => 0x06
  | .wrhx _ _ => 0x07
  | .wrlx _ _ => 0x08
  | .maxx _ _ => 0x09
  | .absa => 0x09
  | .mulx _ => 0x0A
  | .log _ _ => 0x0B
  | .exp _ _ => 0x0C
  | .sof _ _ => 0x0D
  | .and _ => 0x0E
  | .clr => 0x0E
  | .or _ => 0x0F
  | .xor _ => 0x10
  | .not => 0x10
  | .skp _ _ => 0x11
  | .nop => 0x11
  | .wlds _ _ _ => 0x12
  | .wldr _ _ _ => 0x12
  | .jam _ => 0x13
  | .choRda _ _ _ => 0x14
  | .choSof _ _ _ => 0x14
  | .choRdal _ _ => 0x14
  | .choUnknown _ => 0x14

/-- The low five bits of a concatenation are its last part. -/
theorem extract_low_append {n : Nat} (x : BitVec n) (op : BitVec 5) : (x ++ op).extractLsb' 0 5 = op := by
  apply BitVec.eq_of_getLsbD_eq
  intro i hi
  simp [BitVec.getLsbD_append, hi]

/-- The family's statement: the canonical word of a well-formed instruction has the instruction's opcode. -/
def EncodesOpcode.Statement (i : Instr) : Prop := i.wellFormed = true → opcodeOf (encode i) = opcodeNumber i

theorem EncodesOpcode.rda (a : DelayAddr) (c : BitVec 11) :
    EncodesOpcode.Statement (.rda a c) := fun _ => extract_low_append _ _

theorem EncodesOpcode.rmpa (c : BitVec 11) : EncodesOpcode.Statement (.rmpa c) := fun _ => extract_low_append _ _

theorem EncodesOpcode.wra (a : DelayAddr) (c : BitVec 11) :
    EncodesOpcode.Statement (.wra a c) := fun _ => extract_low_append _ _

theorem EncodesOpcode.wrap (a : DelayAddr) (c : BitVec 11) :
    EncodesOpcode.Statement (.wrap a c) := fun _ => extract_low_append _ _

theorem EncodesOpcode.rdax (a : RegAddr) (c : BitVec 16) :
    EncodesOpcode.Statement (.rdax a c) := fun _ => extract_low_append _ _

theorem EncodesOpcode.rdfx (a : RegAddr) (c : BitVec 16) :
    EncodesOpcode.Statement (.rdfx a c) := fun _ => extract_low_append _ _

theorem EncodesOpcode.ldax : EncodesOpcode.Statement .ldax := fun _ => extract_low_append _ _

theorem EncodesOpcode.wrax (a : RegAddr) (c : BitVec 16) :
    EncodesOpcode.Statement (.wrax a c) := fun _ => extract_low_append _ _

theorem EncodesOpcode.wrhx (a : RegAddr) (c : BitVec 16) :
    EncodesOpcode.Statement (.wrhx a c) := fun _ => extract_low_append _ _

theorem EncodesOpcode.wrlx (a : RegAddr) (c : BitVec 16) :
    EncodesOpcode.Statement (.wrlx a c) := fun _ => extract_low_append _ _

theorem EncodesOpcode.maxx (a : RegAddr) (c : BitVec 16) :
    EncodesOpcode.Statement (.maxx a c) := fun _ => extract_low_append _ _

theorem EncodesOpcode.absa : EncodesOpcode.Statement .absa := fun _ => extract_low_append _ _

theorem EncodesOpcode.mulx (a : RegAddr) : EncodesOpcode.Statement (.mulx a) := fun _ => extract_low_append _ _

theorem EncodesOpcode.log (c : BitVec 16) (d : BitVec 11) :
    EncodesOpcode.Statement (.log c d) := fun _ => extract_low_append _ _

theorem EncodesOpcode.exp (c : BitVec 16) (d : BitVec 11) :
    EncodesOpcode.Statement (.exp c d) := fun _ => extract_low_append _ _

theorem EncodesOpcode.sof (c : BitVec 16) (d : BitVec 11) :
    EncodesOpcode.Statement (.sof c d) := fun _ => extract_low_append _ _

theorem EncodesOpcode.and (m : BitVec 24) : EncodesOpcode.Statement (.and m) := fun _ => extract_low_append _ _

theorem EncodesOpcode.clr : EncodesOpcode.Statement .clr := fun _ => extract_low_append _ _

theorem EncodesOpcode.or (m : BitVec 24) : EncodesOpcode.Statement (.or m) := fun _ => extract_low_append _ _

theorem EncodesOpcode.xor (m : BitVec 24) : EncodesOpcode.Statement (.xor m) := fun _ => extract_low_append _ _

theorem EncodesOpcode.not : EncodesOpcode.Statement .not := fun _ => extract_low_append _ _

theorem EncodesOpcode.skp (f : SkpFlags) (n : BitVec 6) :
    EncodesOpcode.Statement (.skp f n) := fun _ => extract_low_append _ _

theorem EncodesOpcode.nop : EncodesOpcode.Statement .nop := fun _ => extract_low_append _ _

theorem EncodesOpcode.wlds (k : SineSel) (f : BitVec 9) (a : BitVec 15) :
    EncodesOpcode.Statement (.wlds k f a) := fun _ => extract_low_append _ _

theorem EncodesOpcode.wldr (k : RampSel) (f : BitVec 16) (a : RampRange) :
    EncodesOpcode.Statement (.wldr k f a) := fun _ => extract_low_append _ _

theorem EncodesOpcode.jam (k : RampSel) : EncodesOpcode.Statement (.jam k) := fun _ => extract_low_append _ _

theorem EncodesOpcode.choRda (n : LfoSel) (f : ChoFlags) (a : DelayAddr) :
    EncodesOpcode.Statement (.choRda n f a) := fun _ => extract_low_append _ _

theorem EncodesOpcode.choSof (n : LfoSel) (f : ChoFlags) (d : BitVec 16) :
    EncodesOpcode.Statement (.choSof n f d) := fun _ => extract_low_append _ _

theorem EncodesOpcode.choRdal (n : LfoSel) (f : ChoFlags) :
    EncodesOpcode.Statement (.choRdal n f) := fun _ => extract_low_append _ _

theorem EncodesOpcode.choUnknown (w : Word) : EncodesOpcode.Statement (.choUnknown w) := by
  intro h
  simp only [Instr.wellFormed, Bool.and_eq_true, beq_iff_eq] at h
  exact h.1

end Sys2Proof.Laws
end

