-- ==== Sys2Proof/Tests/Slice0.lean ====
section
/-! SUPPORT. The model's own tests. Expected values come from spec/95_test_vectors.md, whose section each comment names,
or are worked out by hand from the rule named. The last part holds a witness for the hypotheses of each statement. -/

namespace Sys2Proof.Tests

open Sys2Proof Sys2Proof.Machine Sys2Proof.Claims

/-! ## Well-formedness: a term each check refuses (R119, R120) -/

theorem test_illformed_rdfx : (Instr.rdfx 0 0).wellFormed = false := by decide
theorem test_illformed_maxx : (Instr.maxx 0 0).wellFormed = false := by decide
theorem test_illformed_and : (Instr.and 0).wellFormed = false := by decide
theorem test_illformed_xor : (Instr.xor 0xFFFFFF).wellFormed = false := by decide
theorem test_illformed_skp : (Instr.skp SkpFlags.none 0).wellFormed = false := by decide
theorem test_illformed_choUnknown_top : (Instr.choUnknown 0x80000014).wellFormed = false := by decide
theorem test_illformed_choUnknown_opcode : (Instr.choUnknown 0x40000013).wellFormed = false := by decide

/-! ## Decoding: one word for each instruction, written field by field from the format tables (95 S8, 2.2 to 2.9) -/

theorem test_decode_rda : decodeWord 0b00100000000_0000001111101000_00000 = .ok (.rda 1000 256) := by decide
theorem test_decode_rmpa : decodeWord 0b01000000000_0000000000011000_00001 = .ok (.rmpa 512) := by decide
theorem test_decode_wra : decodeWord 0b00101100110_0000001111101000_00010 = .ok (.wra 1000 358) := by decide
theorem test_decode_wrap : decodeWord 0b11100000000_0000000011001000_00011 = .ok (.wrap 200 0x700) := by decide
theorem test_decode_rdax : decodeWord 0b0010000000000000_00000_100000_00100 = .ok (.rdax 0x20 0x2000) := by decide
theorem test_decode_rdfx : decodeWord 0b0000000000000000_00000_000001_00101 = .ok (.rdfx 1 0) := by decide
theorem test_decode_ldax : decodeWord 0b0000000000000000_00000_000000_00101 = .ok .ldax := by decide
theorem test_decode_wrax : decodeWord 0b0000000000000000_00000_010110_00110 = .ok (.wrax 0x16 0) := by decide
theorem test_decode_wrhx : decodeWord 0b1110000000000000_00000_100010_00111 = .ok (.wrhx 0x22 0xE000) := by decide
theorem test_decode_wrlx : decodeWord 0b0010000000000000_00000_100011_01000 = .ok (.wrlx 0x23 0x2000) := by decide
theorem test_decode_maxx : decodeWord 0b1100000000000000_00000_100100_01001 = .ok (.maxx 0x24 0xC000) := by decide
theorem test_decode_absa : decodeWord 0b0000000000000000_00000_000000_01001 = .ok .absa := by decide
theorem test_decode_mulx : decodeWord 0b000000000000000000000_100101_01010 = .ok (.mulx 0x25) := by decide
theorem test_decode_log : decodeWord 0b0000100000000000_00000000000_01011 = .ok (.log 2048 0) := by decide
theorem test_decode_exp : decodeWord 0b0100000000000000_00000000000_01100 = .ok (.exp 0x4000 0) := by decide
theorem test_decode_sof : decodeWord 0b0001001100110011_00011001101_01101 = .ok (.sof 4915 205) := by decide
theorem test_decode_and : decodeWord 0b000000000000000000000001_000_01110 = .ok (.and 1) := by decide
theorem test_decode_clr : decodeWord 0b000000000000000000000000_111_01110 = .ok .clr := by decide
theorem test_decode_or : decodeWord 0b100000000000000000000000_000_01111 = .ok (.or 0x800000) := by decide
theorem test_decode_xor : decodeWord 0b111111111111111111111110_000_10000 = .ok (.xor 0xFFFFFE) := by decide
theorem test_decode_not : decodeWord 0b111111111111111111111111_000_10000 = .ok .not := by decide
theorem test_decode_skp : decodeWord 0b01010_000010_0000000000000000_10001 =
    .ok (.skp ⟨false, true, false, true, false⟩ 2) := by decide
theorem test_decode_skp_run : decodeWord 0b10000_000000_0000000000000000_10001 =
    .ok (.skp ⟨true, false, false, false, false⟩ 0) := by decide
theorem test_decode_nop : decodeWord 0b00000_000000_1111111111111111_10001 = .ok .nop := by decide
theorem test_decode_wlds : decodeWord 0b00_0_001100100_000000000001010_10010 = .ok (.wlds .sin0 100 10) := by decide
theorem test_decode_wldr : decodeWord 0b01_1_1111111110011100_000000_11_10010 =
    .ok (.wldr .rmp1 0xFF9C .r512) := by decide
theorem test_decode_wldr_top_bits : decodeWord 0b10_0_0000000000000000_000000_00_10010 =
    .ok (.wldr .rmp0 0 .r4096) := by decide
theorem test_decode_jam : decodeWord 0b000000000000000000000000_1_1_0_10011 = .ok (.jam .rmp1) := by decide
theorem test_decode_cho_rda : decodeWord 0b00_100100_0_10_0000001111101000_10100 =
    .ok (.choRda (.ramp .rmp0) ⟨false, false, true, false, false, true⟩ 1000) := by decide
theorem test_decode_cho_sof : decodeWord 0b10_000000_0_00_0100000000000000_10100 =
    .ok (.choSof (.sine .sin0) ChoFlags.none 0x4000) := by decide
theorem test_decode_cho_rdal : decodeWord 0b11_000010_0_00_0000000000000000_10100 =
    .ok (.choRdal (.sine .sin0) ⟨false, true, false, false, false, false⟩) := by decide
theorem test_decode_cho_unknown : decodeWord 0b01_000000_0_00_0000000000000000_10100 =
    .ok (.choUnknown 0x40000014) := by decide

theorem test_decode_reserved : decodeWord 0x00000015 = .error (.unknownOpcode 0x00000015) := by decide
theorem test_decode_all_ones : decodeWord 0xFFFFFFFF = .error (.unknownOpcode 0xFFFFFFFF) := by decide

/-! `decodeProgram` (95 section 2.2). -/

theorem test_program_terminator : decodeProgram [0x133319AD, 0x00000011, 0x00000015] = .ok [0x133319AD] := by decide
theorem test_program_skp_terminator : decodeProgram [0x4000000F, 0x20000011] = .ok [0x4000000F] := by decide
theorem test_program_unknown :
    decodeProgram [0x133319AD, 0x00000015, 0x00000011] = .error (.unknownOpcode 1 0x00000015) := by decide
theorem test_program_bound :
    decodeProgram (List.replicate 128 0x0000000D ++ [0x00000011, 0x00000015]) =
      .ok (List.replicate 128 0x0000000D) := by decide +kernel
theorem test_program_too_long :
    decodeProgram (List.replicate 129 0x0000000D ++ [0x00000015]) = .error (.programTooLong 128) := by decide +kernel

/-! ## Fixed-point primitives (95 S6, S7, 2.1) -/

/-- A raw value as an S8.23 value. -/
def fx (v : Int) : Fixed := Fixed.ofRaw (BitVec.ofInt 32 v)

theorem test_add_clamps : fpAdd true (fx 6291456) (fx 4194304) = ⟨8388607, 8, 23, true⟩ := by decide
theorem test_sub_clamps : fpSub true (fx (-6291456)) (fx 4194304) = ⟨BitVec.ofInt 32 (-8388608), 8, 23, true⟩ := by decide
theorem test_mult_floor : fpMult true (fx (-1)) (fx 1) = fx (-1) := by decide
theorem test_mult_clamps : fpMult true (fx (-8388608)) (fx (-8388608)) = ⟨8388607, 8, 23, true⟩ := by decide
theorem test_abs_clamps : fpAbs true (fx (-8388608)) = ⟨8388607, 8, 23, true⟩ := by decide
theorem test_toQ_fits : toQ (fx (-8388608)) 1 14 = (0xC000, true) := by decide
theorem test_toQ_does_not_fit : toQ (fx 16777216) 0 23 = (0, false) := by decide
theorem test_equals_coarse : equalsWithPrecision (fx 2937600) (fx 2936012) 10 = true := by decide
theorem test_equals_fine : equalsWithPrecision (fx 2937600) (fx 2936012) 14 = false := by decide
theorem test_fromReal_truncates : fromReal (Real64.ofRatio (-3) 10) = fx (-2516582) := by decide
theorem test_fromReal_saturates : fromReal (Real64.ofInt 300) = ⟨2147483647, 8, 23, true⟩ := by decide

/-! ## One step of each instruction (95 sections 2.3 to 2.9) -/

/-- The state after load with a sample in flight and ACC at a raw value. -/
def withAcc (v : Int) : State := { State.reset with phase := .inSample, acc := fx v }

/-- What a field is after the word `w` runs as the next instruction. -/
def after {α : Type} (w : Nat) (s : State) (f : State → α) : Option α :=
  match step (s.withFetchWord 32 w) with
  | .next t => some (f t)
  | .fault _ => none
  | .refused _ => none

/-- The error the word `w` ends in. -/
def errorOf (w : Nat) (s : State) : Option Fault :=
  match step (s.withFetchWord 32 w) with
  | .next _ => none
  | .fault e => some e
  | .refused _ => none

/-- The state with one register slot at a raw value. -/
def withReg (a : RegAddr) (v : Int) (s : State) : State := s.setReg a (BitVec.ofInt 32 v)

theorem test_sof : after 0x133319AD (withAcc 4194304) (fun t => (t.acc.val, t.pacc.val, t.ip)) =
    some (2937600, 4194304, 1) := by decide
theorem test_sof_product_clamps :
    after 0x6000C00D (withAcc 8388607) (fun t => (t.acc.val, t.acc.ovf, t.diag.accOverflows)) =
      some (4194303, false, 1) := by decide
theorem test_log : after 0x0800000B (withAcc (-4194304)) (fun t => t.acc.val) = some (-524288) := by decide +kernel
theorem test_log_of_zero : after 0x0800000B (withAcc 0) (fun t => t.acc.val) = some (-8388608) := by decide
theorem test_exp : after 0x4000000C (withAcc (-1048576)) (fun t => t.acc.val) = some 2097152 := by decide
theorem test_exp_of_zero : after 0x4000000C (withAcc 0) (fun t => t.acc.val) = some 8388607 := by decide
theorem test_and : after 0x0F0F0F0E (withAcc 0x123456) (fun t => (t.acc.val, t.pacc.val)) =
    some (0x020406, 0x123456) := by decide
theorem test_and_sign_extends : after 0x8000000E (withAcc (-1)) (fun t => t.acc.val) = some (-8388608) := by decide
theorem test_clr : after 0x0000000E (withAcc (-8388608)) (fun t => (t.acc.val, t.pacc.val)) =
    some (0, -8388608) := by decide
theorem test_or_keeps_pacc :
    after 0x8000000F { withAcc 1 with pacc := fx 5 } (fun t => (t.acc.val, t.pacc.val)) =
      some (-8388607, 5) := by decide
theorem test_xor : after 0x0F0F0F10 (withAcc 0x00FF00) (fun t => t.acc.val) = some 0x0FF00F := by decide
theorem test_not : after 0xFFFFFF10 (withAcc 0x400000) (fun t => (t.acc.val, t.pacc.val)) =
    some (-4194305, 4194304) := by decide
theorem test_rda :
    after 0x20007D00 { withAcc 838860 with mem := ⟨[(1000, 0x200000)]⟩ } (fun t => (t.lr.val, t.acc.val, t.pacc.val)) =
      some (2097152, 1887436, 838860) := by decide
theorem test_rda_clamps_base :
    after 0x40138800 { withAcc 0 with mem := ⟨[(32767, 0x100000)]⟩ } (fun t => (t.lr.val, t.acc.val, t.diag.oobReads)) =
      some (1048576, 1048576, 1) := by decide
theorem test_rmpa :
    after 0x40000301 (withReg 0x18 25600 { withAcc 0 with mem := ⟨[(100, 0x400000)]⟩ })
      (fun t => (t.lr.val, t.acc.val)) = some (4194304, 4194304) := by decide
theorem test_rmpa_negative_pointer :
    after 0x40000301 (withReg 0x18 (-256) { withAcc 0 with mem := ⟨[(0, 0x400000)]⟩ })
      (fun t => (t.acc.val, t.diag.oobReads)) = some (4194304, 1) := by decide
theorem test_wra :
    after 0x2CC07D02 (withAcc 4194304) (fun t => (t.mem.cells, t.acc.val, t.pacc.val)) =
      some ([(1000, 0x400000)], 2932736, 4194304) := by decide
theorem test_wra_wraps_index :
    after 0x000000A2 { withAcc (-8388608) with dp := 32767 } (fun t => (t.mem.cells, t.acc.val)) =
      some ([(4, 0x800000)], 0) := by decide
theorem test_wrap :
    after 0xE0001903 { withAcc 4194304 with lr := ofDelayWord 0x200000 } (fun t => (t.mem.cells, t.acc.val, t.lr.val)) =
      some ([(200, 0x400000)], 0, 2097152) := by decide
theorem test_rdax :
    after 0x20000404 (withReg 0x20 4194304 (withAcc 2097152)) (fun t => (t.acc.val, t.pacc.val)) =
      some (4194304, 2097152) := by decide
theorem test_rdax_minus_two :
    after 0x80000404 (withReg 0x20 4194304 (withAcc 0)) (fun t => (t.acc.val, t.diag.accOverflows)) =
      some (-8388608, 0) := by decide
theorem test_rdfx :
    after 0x10000425 (withReg 0x21 2097152 (withAcc 4194304)) (fun t => (t.acc.val, t.pacc.val)) =
      some (2621440, 4194304) := by decide
theorem test_ldax : after 0x00000005 (withReg 0 100 (withAcc 7)) (fun t => (t.acc.val, t.pacc.val)) =
    some (100, 7) := by decide
theorem test_wrax_rate :
    after 0x40000006 (withAcc 4194304) (fun t => (t.sin0.rate, (t.reg 0x00).toNat, t.acc.val)) =
      some (256, 256, 4194304) := by decide
theorem test_wrax_range_rounds :
    after 0x000000A6 (withAcc 2516582) (fun t => (t.rmp0.range, (t.reg 0x05).toNat, t.diag.lfoInvalidRmp0)) =
      some (.r1024, 1024, true) := by decide
theorem test_wrhx :
    after 0xE0000447 { withAcc 4194304 with pacc := fx 2097152 } (fun t => ((t.reg 0x22).toInt, t.acc.val, t.pacc.val)) =
      some (4194304, 0, 4194304) := by decide
theorem test_wrlx :
    after 0x20000468 { withAcc 4194304 with pacc := fx 2097152 } (fun t => ((t.reg 0x23).toInt, t.acc.val, t.pacc.val)) =
      some (4194304, 1048576, 4194304) := by decide
theorem test_maxx :
    after 0xC0000489 (withReg 0x24 4194304 (withAcc (-2097152))) (fun t => (t.acc.val, t.pacc.val)) =
      some (4194304, -2097152) := by decide
theorem test_maxx_product_clamps :
    after 0xC0000409 (withReg 0x20 (-8388608) (withAcc 1048576)) (fun t => (t.acc.val, t.diag.accOverflows)) =
      some (8388607, 1) := by decide
theorem test_absa :
    after 0x00000009 (withAcc (-8388608)) (fun t => (t.acc.val, t.acc.ovf, t.diag.accOverflows)) =
      some (8388607, true, 1) := by decide
theorem test_mulx : after 0x000004AA (withReg 0x25 (-4194304) (withAcc 4194304)) (fun t => t.acc.val) =
    some (-2097152) := by decide
theorem test_wlds :
    after 0x06400152 (withAcc 0) (fun t => (t.sin0.rate, t.sin0.range, (t.reg 0).toNat, (t.reg 1).toNat)) =
      some (100, 10, 100, 10) := by decide
theorem test_wldr :
    after 0x7FF38072 (withAcc 0) (fun t => (t.rmp1.rate, t.rmp1.range, (t.reg 6).toInt, (t.reg 7).toNat)) =
      some (-100, .r512, -100, 512) := by decide
theorem test_wldr_clamps_rate :
    after 0x563C0012 (withAcc 0) (fun t => (t.rmp0.rate, (t.reg 4).toInt, t.diag.lfoInvalidRmp0)) =
      some (-16384, -16384, true) := by decide
theorem test_jam :
    after 0x000000D3 { withAcc 0 with rmp1 := ⟨12345, 7, .r1024, Real64.one⟩ } (fun t => t.rmp1) =
      some ⟨0, 7, .r1024, Real64.zero⟩ := by decide
theorem test_skp_zro : after 0x20600011 { withAcc 0 with ip := 2 } (fun t => t.ip) = some 5 := by decide
theorem test_skp_zrc_not_taken : after 0x40600011 { withAcc 0 with ip := 2 } (fun t => t.ip) = some 3 := by decide
theorem test_nop : after 0x00000011 (withAcc 9) (fun t => (t.acc.val, t.ip)) = some (9, 1) := by decide

/-- The ramp rows of 95 section 2.9: c_0 = 2^30 and three delay words. -/
def rampRow : State :=
  { withAcc 0 with
    rmp0 := { RampOsc.reset with counter := 2 ^ 30 }.refresh
    mem := ⟨[(1000, 0x400000), (3048, 0x400000), (7143, 0x200000)]⟩ }

theorem test_cho_rda : after 0x00407D14 rampRow (fun t => (t.lr.val, t.acc.val)) =
    some (4194304, 1048576) := by decide
theorem test_cho_rda_compa : after 0x08407D14 rampRow (fun t => (t.lr.val, t.acc.val)) =
    some (2097152, 1572863) := by decide

/-- A sine oscillator at phase pi/6 and full amplitude (95 section 2.9). -/
def sixthTurn : State :=
  { withAcc 4194304 with sin0 := { SineOsc.reset with angle := Real64.twoPi.mul (Real64.ofRatio 1 12), range := 32767 } }

theorem test_cho_sof : after 0x80080014 sixthTurn (fun t => t.acc.val) = some 6291455 := by decide
theorem test_cho_rdal :
    after 0xC1000014 { withAcc 0 with sin0 := { SineOsc.reset with range := 32767 } }
      (fun t => (t.acc.val, t.acc.ovf, t.diag.accOverflows)) = some (8388607, true, 1) := by decide
theorem test_cho_error_order :
    errorOf 0x21600014 (withAcc 0) = some (.incompatibleFlag .cos (.ramp .rmp1)) := by decide
theorem test_cho_unknown : errorOf 0x40000014 (withAcc 0) = some (.unknownInstruction 0x40000014) := by decide

/-! ## Oscillators and the engine (95 S3, S10, 2.7, 2.10) -/

theorem test_advance_sine : advanceAngle Real64.zero 511 = Real64.ofRatio 511 131072 := by decide
theorem test_advance_ramp_down : advanceCounter 0 16384 = 2147479552 := by decide
theorem test_advance_ramp_up : advanceCounter (2147483648 - 101) (-16384) = 3995 := by decide
theorem test_advance_ramp_stopped : advanceCounter 50 3 = 50 := by decide
theorem test_advance_ramp_floor : advanceCounter 2147483647 (-1) = 0 := by decide

theorem test_empty_program :
    (match step { State.reset with phase := .inSample } with
      | .next t => some (t.dp, t.run, t.phase)
      | .fault _ => none
      | .refused _ => none) = some (32767, false, .betweenSamples) := by decide

theorem test_step_ceiling :
    (match step { withAcc 0 with program := [0x20000011], steps := 128 } with
      | .next _ => none
      | .fault e => some e
      | .refused _ => none) = some (.stepCeilingExceeded 0) := by decide

theorem test_malformed_image :
    (match step { State.reset with host := [.load [0x00, 0x00]] } with
      | .next _ => none
      | .fault _ => none
      | .refused r => some r) = some (.malformedImage 2) := by decide

/-! ## Witnesses: a concrete state and operands that meet the hypotheses of each statement -/

/-- DecodeOfEncode: the nearest well-formed neighbours of the ill-formed terms, and a CHO_UNKNOWN with ignored bits set. -/
theorem witness_DecodeOfEncode :
    (Instr.rdfx 0 1).wellFormed = true ∧ (Instr.maxx 1 0).wellFormed = true ∧ (Instr.and 1).wellFormed = true ∧
    (Instr.xor 0xFFFFFE).wellFormed = true ∧ (Instr.skp SkpFlags.none 1).wellFormed = true ∧
    (Instr.skp ⟨true, false, false, false, false⟩ 0).wellFormed = true ∧
    (Instr.choUnknown 0x7FFFFFF4).wellFormed = true ∧ (Instr.rda 0xFFFF 0x400).wellFormed = true := by decide

theorem witness_DecodedInstructionsAreCanonical :
    decodeWord 0x001FFFF1 = .ok .nop ∧ decodeWord 0x7FFFFFF4 = .ok (.choUnknown 0x7FFFFFF4) := by decide

theorem witness_DecodeTotalOnTemplates : ¬ Templated 0x00000015 ∧ ¬ Templated 0xFFFFFFFF := by
  unfold Templated
  decide

/-- IgnoredBitsHaveNoEffect: for each clause, a word and the same word with every ignored bit set. -/
theorem witness_IgnoredBitsHaveNoEffect :
    (0x20000404#32 &&& 0xFFFF07FF#32 = 0x2000FC04#32 &&& 0xFFFF07FF#32 ∧ opcodeOf 0x2000FC04 = 4#5) ∧
    (0x00000009#32 &&& 0xFFFF07FF#32 = 0x0000F809#32 &&& 0xFFFF07FF#32 ∧ opcodeOf 0x0000F809 = 9#5) ∧
    (0x40000001#32 &&& 0xFFE0001F#32 = 0x401FFFE1#32 &&& 0xFFE0001F#32 ∧ opcodeOf 0x401FFFE1 = 1#5) ∧
    (0x000004AA#32 &&& 0x000007FF#32 = 0xFFFFFCAA#32 &&& 0x000007FF#32 ∧ opcodeOf 0xFFFFFCAA = 0xA#5) ∧
    (0x0000000E#32 &&& 0xFFFFFF1F#32 = 0x000000EE#32 &&& 0xFFFFFF1F#32 ∧ opcodeOf 0x000000EE = 0xE#5) ∧
    (0xFFFFFF10#32 &&& 0xFFFFFF1F#32 = 0xFFFFFFF0#32 &&& 0xFFFFFF1F#32 ∧ opcodeOf 0xFFFFFFF0 = 0x10#5) ∧
    (0x50400011#32 &&& 0xFFE0001F#32 = 0x505FFFF1#32 &&& 0xFFE0001F#32 ∧ opcodeOf 0x505FFFF1 = 0x11#5) ∧
    (0x48000012#32 &&& 0xFFFFE07F#32 = 0x48001F92#32 &&& 0xFFFFE07F#32 ∧ opcodeOf 0x48001F92 = 0x12#5) ∧
    (0x000000D3#32 &&& 0x0000005F#32 = 0xFFFFFF73#32 &&& 0x0000005F#32 ∧ opcodeOf 0xFFFFFF73 = 0x13#5) ∧
    (0x80080014#32 &&& 0xFF7FFFFF#32 = 0x80880014#32 &&& 0xFF7FFFFF#32 ∧ opcodeOf 0x80880014 = 0x14#5) ∧
    (0x00407D14#32 &&& 0xFF7FFFFF#32 = 0x00C07D14#32 &&& 0xFF7FFFFF#32 ∧ opcodeOf 0x00C07D14 = 0x14#5) ∧
    (0xC2000014#32 &&& 0xFF60001F#32 = 0xC29FFFF4#32 &&& 0xFF60001F#32 ∧ opcodeOf 0xC29FFFF4 = 0x14#5) := by decide

theorem witness_ProgramIsWordsBeforeTerminator :
    beforeTerminator [0x4000000F, 0x20000011, 0x00000015] = [0x4000000F] ∧ Templated 0x4000000F := by
  unfold Templated
  decide

/-- ProgramErrorsInScanOrder: an unknown opcode at the last index below the bound, and a program one word too long. -/
theorem witness_ProgramErrorsInScanOrder :
    decodeProgram (List.replicate 127 0x0000000D ++ [0x00000015]) = .error (.unknownOpcode 127 0x00000015) ∧
    decodeProgram (List.replicate 129 0x0000000D) = .error (.programTooLong 128) := by decide +kernel

theorem witness_QFormatRoundTrip :
    toQFormat (fromQ 8 23 0x80000000#32) 8 23 = some (0x80000000#32, true) ∧
    setFromQFormat 9 23 (0 : BitVec 33) = none ∧ setFromQFormat 0 24 (0 : BitVec 25) = none := by decide

theorem witness_BitwiseIs24BitInRange : (fx (-8388608)).raw = (0x800000#24).signExtend 32 := by decide

/-- LogExpIntermediates: the ends of each clause's range, three times the smallest and the largest power, a half point,
and both sides of the edges of the negative range. -/
theorem witness_LogExpIntermediates :
    log2Fn 127 = -8388608 ∧ log2Fn (2 ^ 7) = (7 - 23) * 524288 ∧ log2Fn (2 ^ 23) = 0 ∧
    log2Fn (3 * 2 ^ 6) = (6 - 22) * 524288 + 306689 ∧ log2Fn (3 * 2 ^ 21) = (21 - 22) * 524288 + 306689 ∧
    exp2Fn 0 = 8388607 ∧ exp2Fn (-524288) = 2 ^ 22 ∧ exp2Fn (-(23 * 524288)) = 1 ∧ exp2Fn (-1) = 8388596 ∧
    exp2Fn (-262144) = 5931641 ∧ exp2Fn (-8388608) = 128 ∧ exp2Fn (-8388609) = 127 := by
  decide +kernel

/-- DelayWriteResults: the empty memory, and one with its first and last words written. -/
theorem witness_DelayWriteResults :
    (withAcc 1).mem.wf = true ∧ ({ withAcc 1 with mem := ⟨[(0, 1), (32767, 0x800000)]⟩ }).mem.wf = true := by decide

/-- DelayLineProperty: the last pointer, the last base and a memory with its first and last words written. -/
theorem witness_DelayLineProperty :
    DelayPointerInRange { State.reset with dp := 32767 } ∧ 32766 + 1 < 32768 ∧
    ({ State.reset with dp := 32767, mem := ⟨[(0, 1), (32767, 0x800000)]⟩ }).mem.wf = true := by
  unfold DelayPointerInRange
  decide

theorem witness_PlainRegisterWrite : 8 ≤ (0x08#6).toNat ∧ 8 ≤ (0x3F#6).toNat := by decide

theorem witness_SineRegisterWrite : (0x03#6).toNat < 4 ∧ 0x04#6 ≠ 0x03#6 := by decide

/-- RampRegisterWrite: a shifted amplitude just below and at the smallest step, and two slots. -/
theorem witness_RampRegisterWrite :
    (fx (512 * 2048 - 1)).raw.toInt / 2048 < 512 ∧ 512 ≤ (fx (512 * 2048)).raw.toInt / 2048 ∧
    4 ≤ (0x04#6).toNat ∧ (0x07#6).toNat < 8 ∧ 0x08#6 ≠ 0x07#6 := by decide

/-- The boundary values of a sine oscillator's parameters. -/
def fullSine : SineOsc := SineOsc.refresh ⟨⟨Real64.twoPi.units - 1⟩, 511, 32767, Real64.zero, Real64.zero⟩

/-- The boundary values of a ramp oscillator's parameters. -/
def fullRamp : RampOsc := RampOsc.refresh ⟨2147483647, -16384, .r512, Real64.zero⟩

/-- A state with its oscillators at the boundaries of their ranges. -/
def fullState : State :=
  { withAcc 4194304 with
    sin0 := fullSine
    sin1 := SineOsc.refresh ⟨Real64.zero, 0, 32767, Real64.zero, Real64.zero⟩
    rmp0 := fullRamp }

theorem fullSine_inRange : fullSine.inRange := by
  unfold SineOsc.inRange
  decide +kernel

/-- SineAdvanceStaysInCircle: an angle whose advance passes the full circle, and one whose advance does not. -/
theorem witness_SineAdvanceStaysInCircle :
    fullSine.inRange ∧ Real64.twoPi.units ≤ (fullSine.angle.add (Real64.ofRatio 511 131072)).units ∧
    SineOsc.reset.inRange ∧ (SineOsc.reset.angle.add (Real64.ofRatio 0 131072)).units < Real64.twoPi.units :=
  ⟨fullSine_inRange, by decide +kernel, by unfold SineOsc.inRange; decide +kernel, by decide +kernel⟩

theorem reset_oscillators_inRange : OscillatorsInRange State.reset := by
  refine ⟨fun k => ?_, fun k => ?_⟩ <;> cases k <;> simp only [SineOsc.inRange, RampOsc.inRange] <;> decide +kernel

theorem full_oscillators_inRange : OscillatorsInRange fullState := by
  refine ⟨fun k => ?_, fun k => ?_⟩ <;> cases k <;> simp only [SineOsc.inRange, RampOsc.inRange] <;> decide +kernel

theorem reset_storedLive : StoredLive State.reset := by
  refine ⟨fun k => ?_, fun k => ?_⟩ <;> cases k <;> decide +kernel

theorem full_storedLive : StoredLive fullState := by
  refine ⟨fun k => ?_, fun k => ?_⟩ <;> cases k <;> decide +kernel

/-- ChoRdaResult and ChoSofRdalResults: every flag a sine and a ramp accept, on a state at the boundaries. -/
theorem witness_ChoRdaResult :
    LfoHealthy fullState ∧ choCompatible (.sine .sin0) ⟨true, true, true, true, false, false⟩ = true ∧
    choCompatible (.ramp .rmp0) ⟨false, true, true, true, true, true⟩ = true :=
  ⟨⟨full_oscillators_inRange, full_storedLive⟩, by decide, by decide⟩

theorem witness_ChoSofRdalResults :
    LfoHealthy State.reset ∧ choCompatible (.sine .sin1) ⟨false, true, false, false, false, false⟩ = true :=
  ⟨⟨reset_oscillators_inRange, reset_storedLive⟩, by decide⟩

theorem witness_ChoRampValues :
    LfoHealthy fullState ∧ (⟨false, true, true, true, true, true⟩ : ChoFlags).cos = false :=
  ⟨⟨full_oscillators_inRange, full_storedLive⟩, by decide⟩

theorem witness_ChoSineValues :
    LfoHealthy fullState ∧ (⟨true, true, true, true, false, false⟩ : ChoFlags).rptr2 = false ∧
    (⟨true, true, true, true, false, false⟩ : ChoFlags).na = false ∧ 8 ≤ 8 ∧ 8 % 4 = 0 ∧ 6 % 4 = 2 ∧ 7 % 2 = 1 :=
  ⟨⟨full_oscillators_inRange, full_storedLive⟩, by decide, by decide, by decide⟩

/-- ChoOffsetBounds: a full ramp reaches its amplitude, and a full cosine reaches 32767. -/
theorem witness_ChoOffsetBounds :
    LfoHealthy fullState ∧
    (choEval fullState (.ramp .rmp0) ChoFlags.none).toOption.map (·.offset) = some 512 ∧
    (choEval fullState (.sine .sin1) ⟨true, false, false, false, false, false⟩).toOption.map (·.offset) = some 32767 :=
  ⟨⟨full_oscillators_inRange, full_storedLive⟩, by decide +kernel, by decide +kernel⟩

/-- IncompatibleFlagsFail: COS on a ramp, RPTR2 and NA together on a sine, NA alone on a sine. -/
theorem witness_IncompatibleFlagsFail :
    LfoHealthy State.reset ∧ (⟨true, false, false, false, false, true⟩ : ChoFlags).cos = true ∧
    (⟨false, false, false, false, true, true⟩ : ChoFlags).rptr2 = true ∧
    (⟨false, false, false, false, false, true⟩ : ChoFlags).rptr2 = false ∧
    (⟨false, false, false, false, false, true⟩ : ChoFlags).na = true :=
  ⟨⟨reset_oscillators_inRange, reset_storedLive⟩, by decide, by decide, by decide, by decide⟩

/-- PaccDiscipline, InstructionsLeaveTheRest and DiagnosticsOnlyGrow: an instruction that captures and one that does not,
both with a next state. -/
theorem witness_PaccDiscipline :
    exec .clr (withAcc 5) = .next { withAcc 5 with acc := fx 0, pacc := fx 5, ip := 1 } ∧
    exec (.or 0) (withAcc 5) = .next { withAcc 5 with ip := 1 } := ⟨rfl, rfl⟩

theorem witness_InstructionsLeaveTheRest : ∃ t, exec (.jam .rmp1) fullState = .next t ∧ Instr.jam .rmp1 ≠ .jam .rmp0 :=
  ⟨_, rfl, by decide⟩

theorem witness_OnlyChorusFails :
    exec (.choUnknown 0x40000014) State.reset = .fault (.unknownInstruction 0x40000014) := rfl

theorem witness_DiagnosticsOnlyGrow : ∃ t, exec (.wldr .rmp0 0x8000 .r512) State.reset = .next t ∧
    t.diag.lfoInvalidRmp0 = true := ⟨_, rfl, by decide⟩

theorem witness_DiagnosticsHaveNoEffect :
    eraseDiag State.reset = eraseDiag { State.reset with diag := { Diag.clear with oobReads := 7 } } := rfl

/-- A state one step below the step ceiling with a word to fetch. -/
def lastStep : State := { withAcc 0 with program := [0x0000000E], steps := 127 }

theorem witness_StepRunsDecodedInstruction :
    lastStep.phase = .inSample ∧ lastStep.program[lastStep.ip]? = some 0x0000000E ∧ lastStep.steps < 128 ∧
    decodeBytes (bytesOfWord 0x0000000E) = .ok (.clr, []) ∧
    { lastStep with steps := 128 }.phase = .inSample ∧
    { lastStep with steps := 128 }.program[{ lastStep with steps := 128 }.ip]? = some 0x0000000E ∧
    128 ≤ { lastStep with steps := 128 }.steps := by decide

theorem witness_SampleEnds :
    (withAcc 0).phase = .inSample ∧ (withAcc 0).program.length ≤ (withAcc 0).ip ∧ (withAcc 0).dp < 32768 := by decide

theorem witness_DelayPointerReturns :
    DelayPointerInRange { State.reset with dp := 32767 } ∧ 0 < 32767 ∧ 32767 < 32768 := by
  unfold DelayPointerInRange
  decide

/-- A state with one pending host command. -/
def pending (c : HostCommand) : State := { State.reset with host := [c] }

theorem witness_HostFrameStep :
    (pending (.frame ⟨1, 2, 3, 4, 5⟩)).phase = .betweenSamples ∧
    (pending (.frame ⟨1, 2, 3, 4, 5⟩)).host = .frame ⟨1, 2, 3, 4, 5⟩ :: [] := by decide

/-- LoadStep: an image for each of its three clauses. -/
theorem witness_LoadStep :
    (pending (.load ([0x133319AD#32, 0x00000011#32].flatMap bytesOfWord))).host =
      .load ([0x133319AD#32, 0x00000011#32].flatMap bytesOfWord) :: [] ∧
    decodeProgram [0x133319AD, 0x00000011] = .ok [0x133319AD] ∧
    decodeProgram [0x00000015] = .error (.unknownOpcode 0 0x00000015) ∧
    decodeProgram (List.replicate 129 0x0000000D) = .error (.programTooLong 128) := by decide +kernel

theorem witness_HostResetAndIdle :
    (pending .resetDiagnostics).phase = .betweenSamples ∧ (pending .resetDiagnostics).host = [.resetDiagnostics] ∧
    State.reset.phase = .betweenSamples ∧ State.reset.host = [] := by decide

/-- StepsRefineRunSample: a sample that completes and one that ends in an error. -/
theorem witness_StepsRefineRunSample :
    (match runSample { State.reset with program := [0x0000000E] } with
      | .next t => some t.dp
      | .fault _ => none
      | .refused _ => none) = some 32767 ∧
    (match runSample { State.reset with program := [0x40000014] } with
      | .next _ => none
      | .fault e => some e
      | .refused _ => none) = some (.unknownInstruction 0x40000014) := by decide

/-- A state inside a sample whose program was decoded. -/
def loaded : State := { withAcc 0 with program := [0x0000000E], ip := 0, steps := 0 }

theorem loaded_programLoaded : ProgramLoaded loaded := by
  refine ⟨by decide, fun w hw => ?_⟩
  have : w = 0x0000000E := by simpa [loaded] using hw
  subst this
  exact ⟨by decide, _, rfl⟩

theorem loaded_steps : ∃ t, step loaded = .next t := ⟨_, rfl⟩

theorem witness_StepCeilingNeverFires :
    ProgramLoaded loaded ∧ StepsBelowIp loaded ∧ ∃ t, step loaded = .next t :=
  ⟨loaded_programLoaded, by unfold StepsBelowIp; decide, loaded_steps⟩

theorem loaded_slotsAgree : SlotsAgree loaded := by
  refine ⟨fun k => ?_, fun k => ?_⟩ <;> cases k <;> decide

theorem witness_SlotsAgreeKept : SlotsAgree loaded ∧ ∃ t, step loaded = .next t := ⟨loaded_slotsAgree, loaded_steps⟩

theorem witness_StoredLiveKept : StoredLive loaded ∧ ∃ t, step loaded = .next t := ⟨reset_storedLive, loaded_steps⟩

theorem witness_OscillatorRangesKept : OscillatorsInRange loaded ∧ ∃ t, step loaded = .next t :=
  ⟨reset_oscillators_inRange, loaded_steps⟩

theorem witness_AccumulatorsKept :
    AccumulatorsClamped loaded ∧ FormatsDeclared loaded ∧ ∃ t, step loaded = .next t :=
  ⟨fun _ => by simp only [Fixed.inData]; decide, by unfold FormatsDeclared; decide, loaded_steps⟩

theorem witness_MemoryAndPointersKept :
    MemoryCanonical loaded ∧ DelayPointerInRange loaded ∧ ProgramLoaded loaded ∧ IpBounded loaded ∧
    ∃ t, step loaded = .next t :=
  ⟨rfl, by unfold DelayPointerInRange; decide, loaded_programLoaded, by unfold IpBounded; decide, loaded_steps⟩

end Sys2Proof.Tests
end

section
/-! What an instruction can do, said once: every instruction that answers a next state ends in one of five shapes. -/

namespace Sys2Proof.Machine

/-! Results in the 24-bit range (R31, R162, R171). -/

/-- With clamping on, a finished result lies in the 24-bit range (R162). -/
theorem finish_inData {clamp : Bool} (hc : clamp = true) (x : Int) (y : Fixed) : (finish clamp x y).inData := by
  subst hc
  exact finish_clamped_bounds x y

/-- The larger of two finished results lies in the 24-bit range with clamping on. -/
theorem ite_finish_inData {clamp : Bool} (hc : clamp = true) (p : Prop) [Decidable p] (x x' : Int) (y y' : Fixed) :
    (if p then finish clamp x y else finish clamp x' y').inData := by
  split
  · exact finish_inData hc x y
  · exact finish_inData hc x' y'

/-- A value lies in the 24-bit range exactly when its pattern is a sign-extended 24-bit word. -/
theorem inData_iff_signExtend (x : Fixed) : x.inData ↔ ∃ d : BitVec 24, x.raw = d.signExtend 32 := by
  constructor
  · intro ⟨hlo, hhi⟩
    have hraw : x.raw = BitVec.ofInt 32 x.raw.toInt := (BitVec.ofInt_toInt).symm
    refine ⟨BitVec.ofInt 24 x.raw.toInt, BitVec.eq_of_toInt_eq ?_⟩
    rw [BitVec.toInt_signExtend_of_le (by decide), BitVec.toInt_ofInt, Int.bmod_eq_of_le]
    · exact hlo
    · exact Int.lt_add_one_of_le hhi
  · intro ⟨d, hd⟩
    have hval : x.val = d.toInt := by rw [Fixed.val, hd, BitVec.toInt_signExtend_of_le (by decide)]
    have hlo := BitVec.le_two_mul_toInt (x := d)
    have hhi := BitVec.two_mul_toInt_lt (x := d)
    simp only [Fixed.inData, hval]
    omega

/-- A bitwise primitive keeps the 24-bit range, clamping or not (R171). -/
theorem fpAnd_inData (a : Fixed) (m : BitVec 24) (h : a.inData) : (fpAnd a m).inData := by
  obtain ⟨d, hd⟩ := (inData_iff_signExtend a).mp h
  exact (inData_iff_signExtend _).mpr ⟨d &&& m, by simp [fpAnd, bitResult, hd, BitVec.signExtend_and]⟩

theorem fpOr_inData (a : Fixed) (m : BitVec 24) (h : a.inData) : (fpOr a m).inData := by
  obtain ⟨d, hd⟩ := (inData_iff_signExtend a).mp h
  exact (inData_iff_signExtend _).mpr ⟨d ||| m, by simp [fpOr, bitResult, hd, BitVec.signExtend_or]⟩

theorem fpXor_inData (a : Fixed) (m : BitVec 24) (h : a.inData) : (fpXor a m).inData := by
  obtain ⟨d, hd⟩ := (inData_iff_signExtend a).mp h
  exact (inData_iff_signExtend _).mpr ⟨d ^^^ m, by simp [fpXor, bitResult, hd, BitVec.signExtend_xor]⟩

/-- A delay word is a value in the 24-bit range (R78). -/
theorem ofDelayWord_inData (w : DelayWord) : (ofDelayWord w).inData := by
  have hlo := BitVec.le_two_mul_toInt (x := w)
  have hhi := BitVec.two_mul_toInt_lt (x := w)
  simp only [Fixed.inData, ofDelayWord_val]
  omega

/-! The shapes of an instruction's effect. -/

/-- The states an instruction can have reached when it finishes with a result for ACC (R244, R251): nothing done (OR),
PACC captured, and with the capture a delay read, a delay write or a register write. `n` counts the clamped LFO values
of a CHO instruction and is 0 for every other. -/
inductive Prepared (s : State) : State → Prop
  | untouched : Prepared s s
  | captured (n : Nat) : Prepared s (s.countClamps n).capturePacc
  | read (n : Nat) (a : Int) : Prepared s ((s.countClamps n).capturePacc.delayRead a)
  | wrote (a : Int) : Prepared s (s.capturePacc.delayWrite a)
  | wroteReg (a : RegAddr) : Prepared s (regWrite a s.acc s.capturePacc)

/-- The next states of an instruction at `s`, by what they change: a result in ACC, the instruction index alone, or an
oscillator. -/
inductive Effect (s : State) : Instr → State → Prop
  | result {i : Instr} {u : State} {results : List Fixed} {v : Fixed} (prepared : Prepared s u)
      (inData : s.cfg.clampEnabled = true → s.acc.inData → v.inData) : Effect s i (u.finishAcc results v)
  | jump {i : Instr} (n : Nat) (bound : n ≤ s.ip + 63 + s.cfg.skpTargetBias) : Effect s i { s with ip := n }
  | wlds (k : SineSel) (f : BitVec 9) (a : BitVec 15) :
      Effect s (.wlds k f a) (setRangeSine k a.toNat (setRateSine k f.toNat s)).nextIp
  | wldr (k : RampSel) (f : BitVec 16) (a : RampRange) :
      Effect s (.wldr k f a) (setRangeRamp k a (setRateRamp k f.toInt s)).nextIp
  | jam (k : RampSel) : Effect s (.jam k) (zeroRamp k s).nextIp

/-- A skip lands at most 63 words and the bias further on (R380). -/
theorem skipTarget_le (f : SkpFlags) (n : BitVec 6) (s : State) :
    skipTarget f n s ≤ s.ip + 63 + s.cfg.skpTargetBias := by
  have := n.isLt
  unfold skipTarget
  split <;> omega

/-- Every instruction that answers a next state has one of the shapes of `Effect`. -/
theorem exec_effect (i : Instr) (s t : State) (h : exec i s = .next t) : Effect s i t := by
  cases i with
  | rda | rmpa => cases h; exact .result (.read 0 _) fun hc _ => finish_inData hc _ _
  | wra | wrap => cases h; exact .result (.wrote _) fun hc _ => finish_inData hc _ _
  | wrax | wrhx | wrlx => cases h; exact .result (.wroteReg _) fun hc _ => finish_inData hc _ _
  | rdax | rdfx | ldax | mulx | log | exp | sof =>
    cases h; exact .result (.captured 0) fun hc _ => finish_inData hc _ _
  | maxx | absa => cases h; exact .result (.captured 0) fun hc _ => ite_finish_inData hc _ _ _ _ _
  | and | clr => cases h; exact .result (.captured 0) fun _ => fpAnd_inData _ _
  | xor | not => cases h; exact .result (.captured 0) fun _ => fpXor_inData _ _
  | or m => cases h; exact .result .untouched fun _ => fpOr_inData _ _
  | skp f n => cases h; exact .jump _ (skipTarget_le f n s)
  | nop => cases h; exact .jump (s.ip + 1) (by omega)
  | wlds k f a => cases h; exact .wlds k f a
  | wldr k f a => cases h; exact .wldr k f a
  | jam k => cases h; exact .jam k
  | choRda n f a =>
    simp only [exec, execChoRda] at h
    split at h
    · cases h
    · cases h; exact .result (.read _ _) fun hc _ => finish_inData hc _ _
  | choSof n f d =>
    simp only [exec, execChoSof] at h
    split at h
    · cases h
    · cases h; exact .result (.captured _) fun hc _ => finish_inData hc _ _
  | choRdal n f =>
    simp only [exec, execChoRdal] at h
    split at h
    · cases h
    · cases h; exact .result (.captured _) fun hc _ => finish_inData hc _ _
  | choUnknown w => cases h

end Sys2Proof.Machine
end

section
/-! The oscillators under every state operation, and what no instruction writes. -/

namespace Sys2Proof.Machine

/-! Operations that reach no oscillator. -/

@[simp] theorem sine_nextIp (s : State) (k : SineSel) : s.nextIp.sine k = s.sine k := by cases k <;> rfl
@[simp] theorem ramp_nextIp (s : State) (k : RampSel) : s.nextIp.ramp k = s.ramp k := by cases k <;> rfl
@[simp] theorem sine_capturePacc (s : State) (k : SineSel) : s.capturePacc.sine k = s.sine k := by cases k <;> rfl
@[simp] theorem ramp_capturePacc (s : State) (k : RampSel) : s.capturePacc.ramp k = s.ramp k := by cases k <;> rfl
@[simp] theorem sine_countClamps (s : State) (n : Nat) (k : SineSel) : (s.countClamps n).sine k = s.sine k := by
  cases k <;> rfl
@[simp] theorem ramp_countClamps (s : State) (n : Nat) (k : RampSel) : (s.countClamps n).ramp k = s.ramp k := by
  cases k <;> rfl
@[simp] theorem sine_delayRead (s : State) (a : Int) (k : SineSel) : (s.delayRead a).sine k = s.sine k := by
  cases k <;> rfl
@[simp] theorem ramp_delayRead (s : State) (a : Int) (k : RampSel) : (s.delayRead a).ramp k = s.ramp k := by
  cases k <;> rfl
@[simp] theorem sine_delayWrite (s : State) (a : Int) (k : SineSel) : (s.delayWrite a).sine k = s.sine k := by
  cases k <;> rfl
@[simp] theorem ramp_delayWrite (s : State) (a : Int) (k : RampSel) : (s.delayWrite a).ramp k = s.ramp k := by
  cases k <;> rfl
@[simp] theorem sine_finishAcc (s : State) (l : List Fixed) (v : Fixed) (k : SineSel) :
    (s.finishAcc l v).sine k = s.sine k := by cases k <;> rfl
@[simp] theorem ramp_finishAcc (s : State) (l : List Fixed) (v : Fixed) (k : RampSel) :
    (s.finishAcc l v).ramp k = s.ramp k := by cases k <;> rfl
@[simp] theorem sine_countDac (s : State) (left : Bool) (v : Fixed) (k : SineSel) :
    (s.countDac left v).sine k = s.sine k := by cases left <;> cases k <;> rfl
@[simp] theorem ramp_countDac (s : State) (left : Bool) (v : Fixed) (k : RampSel) :
    (s.countDac left v).ramp k = s.ramp k := by cases left <;> cases k <;> rfl

/-! Setters leave the oscillators of the other kind alone. -/

@[simp] theorem ramp_setRateSine (s : State) (j : SineSel) (r : Int) (k : RampSel) :
    (setRateSine j r s).ramp k = s.ramp k := by simp [setRateSine]
@[simp] theorem ramp_setRangeSine (s : State) (j : SineSel) (r : Int) (k : RampSel) :
    (setRangeSine j r s).ramp k = s.ramp k := by simp [setRangeSine]
@[simp] theorem sine_setRateRamp (s : State) (j : RampSel) (r : Int) (k : SineSel) :
    (setRateRamp j r s).sine k = s.sine k := by simp [setRateRamp]
@[simp] theorem sine_setRangeRamp (s : State) (j : RampSel) (a : RampRange) (k : SineSel) :
    (setRangeRamp j a s).sine k = s.sine k := by simp [setRangeRamp]
@[simp] theorem sine_setRangeRampRaw (s : State) (j : RampSel) (r : Int) (k : SineSel) :
    (setRangeRampRaw j r s).sine k = s.sine k := by simp [setRangeRampRaw]
@[simp] theorem sine_zeroRamp (s : State) (j : RampSel) (k : SineSel) : (zeroRamp j s).sine k = s.sine k := by
  simp [zeroRamp]

/-! No setter reaches a phase or a counter (R203, R204, R208, R209). -/

@[simp] theorem angle_setRateSine (s : State) (j : SineSel) (r : Int) (k : SineSel) :
    ((setRateSine j r s).sine k).angle = (s.sine k).angle := by cases j <;> cases k <;> rfl
@[simp] theorem angle_setRangeSine (s : State) (j : SineSel) (r : Int) (k : SineSel) :
    ((setRangeSine j r s).sine k).angle = (s.sine k).angle := by cases j <;> cases k <;> rfl
@[simp] theorem counter_setRateRamp (s : State) (j : RampSel) (r : Int) (k : RampSel) :
    ((setRateRamp j r s).ramp k).counter = (s.ramp k).counter := by cases j <;> cases k <;> rfl
@[simp] theorem counter_setRangeRamp (s : State) (j : RampSel) (a : RampRange) (k : RampSel) :
    ((setRangeRamp j a s).ramp k).counter = (s.ramp k).counter := by cases j <;> cases k <;> rfl
@[simp] theorem counter_setRangeRampRaw (s : State) (j : RampSel) (r : Int) (k : RampSel) :
    ((setRangeRampRaw j r s).ramp k).counter = (s.ramp k).counter := by cases j <;> cases k <;> rfl
@[simp] theorem angle_regWrite (s : State) (a : RegAddr) (v : Fixed) (k : SineSel) :
    ((regWrite a v s).sine k).angle = (s.sine k).angle := by unfold regWrite; split <;> simp
@[simp] theorem counter_regWrite (s : State) (a : RegAddr) (v : Fixed) (k : RampSel) :
    ((regWrite a v s).ramp k).counter = (s.ramp k).counter := by unfold regWrite; split <;> simp

/-- A reset of one ramp leaves the other alone (R210). -/
theorem ramp_zeroRamp_ne (s : State) (j k : RampSel) (h : k ≠ j) : (zeroRamp j s).ramp k = s.ramp k :=
  ramp_setRamp_ne s j k _ h

/-! The frame of an instruction. -/

/-- What no instruction writes (R44, R86, R213, R242, R470). -/
structure InstrFrame (s t : State) : Prop where
  program : t.program = s.program
  cfg : t.cfg = s.cfg
  host : t.host = s.host
  phase : t.phase = s.phase
  steps : t.steps = s.steps
  dp : t.dp = s.dp
  run : t.run = s.run
  angle : ∀ k, (t.sine k).angle = (s.sine k).angle

/-- Before the result is written nothing of the frame has changed, nor IP. -/
theorem Prepared.frame {s u : State} (h : Prepared s u) : InstrFrame s u ∧ u.ip = s.ip := by
  cases h <;> exact ⟨by constructor <;> simp, by simp⟩

/-- Before the result is written no ramp counter has changed. -/
theorem Prepared.counter {s u : State} (h : Prepared s u) (k : RampSel) : (u.ramp k).counter = (s.ramp k).counter := by
  cases h <;> simp

/-- Every instruction keeps the frame. -/
theorem exec_frame (i : Instr) (s t : State) (h : exec i s = .next t) : InstrFrame s t := by
  cases exec_effect i s t h with
  | result hu _ =>
    obtain ⟨⟨hprogram, hcfg, hhost, hphase, hsteps, hdp, hrun, hangle⟩, -⟩ := hu.frame
    constructor <;> simpa
  | jump n _ => exact ⟨rfl, rfl, rfl, rfl, rfl, rfl, rfl, fun _ => rfl⟩
  | wlds => constructor <;> simp
  | wldr => constructor <;> simp
  | jam => constructor <;> simp

/-- Only JAM on the same ramp changes a ramp counter (R213, R362). -/
theorem exec_counter (i : Instr) (s t : State) (k : RampSel) (h : exec i s = .next t) (hi : i ≠ .jam k) :
    (t.ramp k).counter = (s.ramp k).counter := by
  cases exec_effect i s t h with
  | result hu _ => simpa using hu.counter k
  | jump n _ => rfl
  | wlds => simp
  | wldr => simp
  | jam j =>
    have hne : k ≠ j := fun hkj => hi (hkj ▸ rfl)
    simp [ramp_zeroRamp_ne s j k hne]

/-- Settles O42: the frame over every instruction, with the ramp counters apart. -/
theorem instructionsLeaveTheRest : Obligations.InstructionsLeaveTheRest := by
  intro i s t h
  have f := exec_frame i s t h
  exact ⟨f.program, f.cfg, f.dp, f.run, f.host, f.phase, f.steps, f.angle .sin0, f.angle .sin1,
    exec_counter i s t .rmp0 h, exec_counter i s t .rmp1 h⟩

end Sys2Proof.Machine
end

section
/-! A step's effect on a predicate of the state, and the invariants of the accumulators, the memory and the pointers. -/

namespace Sys2Proof.Machine

/-- A predicate that the fetched instruction with its count, the end of a sample, a frame, a reset of the diagnostics
and a load each establish from `s` holds after every step from `s`. -/
theorem step_keeps {s t : State} (P : State → Prop) (hs : P s) (h : step s = .next t)
    (instr : ∀ i u, s.ip < s.program.length → exec i s = .next u → P u.countStep)
    (sampleEnd : P (leaveSample s))
    (frame : ∀ f rest, P (beginFrame f { s with host := rest }))
    (diagReset : ∀ rest, P (resetDiagnostics { s with host := rest }))
    (load : ∀ program rest, P (loadedState s.cfg program rest)) : P t := by
  rcases step_next s t h with ⟨-, hh⟩ | ⟨-, hl⟩
  · rcases hostStep_next s t hh with ⟨-, rfl⟩ | ⟨f, rest, -, rfl⟩ | ⟨rest, -, rfl⟩ | ⟨-, rest, program, -, -, rfl⟩
    · exact hs
    · exact frame f rest
    · exact diagReset rest
    · exact load program rest
  · rcases sampleStep_next s t hl with ⟨-, rfl⟩ | ⟨w, i, u, hf, -, -, hu, rfl⟩
    · exact sampleEnd
    · obtain ⟨hip, -⟩ := List.getElem?_eq_some_iff.mp hf
      exact instr i u hip hu

/-! Accumulators (R31, R33, R248). -/

/-- Before the result is written the accumulators keep their range: PACC is ACC or itself, LR a delay word or itself. -/
theorem Prepared.accumulatorsClamped {s u : State} (h : Prepared s u) (hs : AccumulatorsClamped s) :
    AccumulatorsClamped u := by
  intro hc
  obtain ⟨hacc, hpacc, hlr⟩ := hs (h.frame.1.cfg ▸ hc)
  cases h with
  | untouched => exact ⟨hacc, hpacc, hlr⟩
  | captured | wrote => exact ⟨hacc, hacc, hlr⟩
  | read => exact ⟨hacc, hacc, ofDelayWord_inData _⟩
  | wroteReg => simpa using ⟨hacc, hlr⟩

theorem Prepared.formatsDeclared {s u : State} (h : Prepared s u) (hs : FormatsDeclared s) : FormatsDeclared u := by
  obtain ⟨hai, haf, hpi, hpf, hli, hlf⟩ := hs
  cases h with
  | untouched => exact ⟨hai, haf, hpi, hpf, hli, hlf⟩
  | captured | wrote => exact ⟨hai, haf, hai, haf, hli, hlf⟩
  | read => exact ⟨hai, haf, hai, haf, rfl, rfl⟩
  | wroteReg => simp [FormatsDeclared, hai, haf, hli, hlf]

theorem exec_accumulatorsClamped (i : Instr) (s t : State) (h : exec i s = .next t) (hs : AccumulatorsClamped s) :
    AccumulatorsClamped t := by
  intro hc
  rw [(exec_frame i s t h).cfg] at hc
  cases exec_effect i s t h with
  | result hu hv =>
    obtain ⟨-, hpacc, hlr⟩ := hu.accumulatorsClamped hs (hu.frame.1.cfg ▸ hc)
    exact ⟨hv hc (hs hc).1, hpacc, hlr⟩
  | jump => exact hs hc
  | wlds | wldr | jam => simpa using hs hc

/-- Every value written into ACC is declared S8.23 (R174, R248). -/
theorem exec_formatsDeclared (i : Instr) (s t : State) (h : exec i s = .next t) (hs : FormatsDeclared s) :
    FormatsDeclared t := by
  cases exec_effect i s t h with
  | result hu _ =>
    obtain ⟨-, -, hpacc_lr⟩ := hu.formatsDeclared hs
    exact ⟨rfl, rfl, hpacc_lr⟩
  | jump => exact hs
  | wlds | wldr | jam => simpa [FormatsDeclared] using hs

/-- A fresh state has its accumulators at zero, in range and in their formats (R52, R470). -/
theorem loadedState_accumulatorsClamped (cfg : Config) (program : List Word) (host : List HostCommand) :
    AccumulatorsClamped (loadedState cfg program host) := by
  have hzero : Fixed.inData Fixed.zero ∧ Fixed.inData ⟨0, 0, 23, false⟩ := by simp only [Fixed.inData]; decide
  exact fun _ => ⟨hzero.1, hzero⟩

theorem loadedState_formatsDeclared (cfg : Config) (program : List Word) (host : List HostCommand) :
    FormatsDeclared (loadedState cfg program host) := ⟨rfl, rfl, rfl, rfl, rfl, rfl⟩

/-- Settles O59: the end of a sample and the host touch none of the three but at a load, which leaves them zero. -/
theorem accumulatorsKept : Obligations.AccumulatorsKept := by
  intro s t h
  refine ⟨fun hs => ?clamped, fun hs => ?formats⟩
  case clamped =>
    exact step_keeps AccumulatorsClamped hs h (fun i u _ hu => exec_accumulatorsClamped i s u hu hs) hs
      (fun _ _ => hs) (fun _ => hs) (fun _ _ => loadedState_accumulatorsClamped _ _ _)
  case formats =>
    exact step_keeps FormatsDeclared hs h (fun i u _ hu => exec_formatsDeclared i s u hu hs) hs
      (fun _ _ => hs) (fun _ => hs) (fun _ _ => loadedState_formatsDeclared _ _ _)

/-! The delay memory, DP and IP (R34, R44, R70). -/

theorem Prepared.memoryCanonical {s u : State} (h : Prepared s u) (hs : MemoryCanonical s) : MemoryCanonical u := by
  cases h with
  | untouched | captured | read => exact hs
  | wrote a => exact delayWrite_wf s.capturePacc a hs
  | wroteReg => simpa [MemoryCanonical] using hs

theorem exec_memoryCanonical (i : Instr) (s t : State) (h : exec i s = .next t) (hs : MemoryCanonical s) :
    MemoryCanonical t := by
  cases exec_effect i s t h with
  | result hu _ => exact hu.memoryCanonical hs
  | jump => exact hs
  | wlds | wldr | jam => simpa [MemoryCanonical] using hs

/-- An instruction leaves IP at most 63 words and the bias beyond where it was (R247, R380). -/
theorem exec_ip_le (i : Instr) (s t : State) (h : exec i s = .next t) : t.ip ≤ s.ip + 63 + s.cfg.skpTargetBias := by
  cases exec_effect i s t h with
  | result hu _ =>
    rw [finishAcc_ip, hu.frame.2]
    omega
  | jump n hn => exact hn
  | wlds | wldr | jam =>
    simp only [nextIp_ip, setRangeSine_ip, setRateSine_ip, setRangeRamp_ip, setRateRamp_ip, zeroRamp_ip]
    omega

/-- An instruction of a loaded program leaves IP within its bound (R34). -/
theorem exec_ipBounded (i : Instr) (s t : State) (h : exec i s = .next t) (hp : s.program.length ≤ maxProgramLen)
    (hip : s.ip < s.program.length) : IpBounded t := by
  have hle := exec_ip_le i s t h
  rw [IpBounded, (exec_frame i s t h).cfg]
  omega

/-- The end of a sample lowers DP by one, modulo the delay size (R242). -/
theorem endOfSample_dp (s : State) : ((endOfSample s).dp : Int) = ((s.dp : Int) - 1) % 32768 :=
  Int.toNat_of_nonneg (Int.emod_nonneg _ (by decide))

theorem endOfSample_dp_inRange (s : State) : DelayPointerInRange (endOfSample s) := by
  have := endOfSample_dp s
  simp only [DelayPointerInRange, delaySize]
  omega

/-- Settles O60: a delay write keeps the canonical form, the end of a sample the range of DP, and a jump from inside a
loaded program the bound on IP. -/
theorem memoryAndPointersKept : Obligations.MemoryAndPointersKept := by
  intro s t h
  refine ⟨fun hs => ?memory, fun hs => ?pointer, fun hp hs => ?index⟩
  case memory =>
    exact step_keeps MemoryCanonical hs h (fun i u _ hu => exec_memoryCanonical i s u hu hs) hs
      (fun _ _ => hs) (fun _ => hs) (fun _ _ => reset_mem_wf)
  case pointer =>
    have instr (i : Instr) (u : State) (hu : exec i s = .next u) : DelayPointerInRange u := by
      rwa [DelayPointerInRange, (exec_frame i s u hu).dp]
    exact step_keeps DelayPointerInRange hs h (fun i u _ => instr i u) (endOfSample_dp_inRange s)
      (fun _ _ => hs) (fun _ => hs) (fun _ _ => Nat.zero_lt_succ _)
  case index =>
    exact step_keeps IpBounded hs h (fun i u hip hu => exec_ipBounded i s u hu hp.1 hip) (Nat.zero_le _)
      (fun _ _ => Nat.zero_le _) (fun _ => hs) (fun _ _ => Nat.zero_le _)

/-- After `n` ends of sample DP has fallen by `n`, modulo the delay size (R242). -/
theorem endSamples_dp (n : Nat) (s : State) (h : DelayPointerInRange s) :
    ((endSamples n s).dp : Int) = ((s.dp : Int) - n) % 32768 := by
  induction n generalizing s with
  | zero =>
    simp only [DelayPointerInRange, delaySize] at h
    simp only [endSamples]
    omega
  | succ n ih =>
    have hdp := endOfSample_dp s
    rw [endSamples, ih _ (endOfSample_dp_inRange s)]
    push_cast
    omega

/-- Settles O48: `n` ends of sample bring DP back exactly when 32768 divides `n`. -/
theorem delayPointerReturns : Obligations.DelayPointerReturns := by
  intro s h
  have hlt : s.dp < 32768 := h
  have hdp (n : Nat) := endSamples_dp n s h
  refine ⟨?_, fun k h0 hk => ?_⟩
  · have := hdp 32768
    omega
  · have := hdp k
    omega

end Sys2Proof.Machine
end

section
/-! The LFO slots and the oscillators' parameters (R37). -/

namespace Sys2Proof.Machine

/-- The eight oscillator parameters that have a register slot (R36, R37). -/
inductive LfoParam where
  | sineRate (k : SineSel)
  | sineRange (k : SineSel)
  | rampRate (k : RampSel)
  | rampRange (k : RampSel)

/-- The slot of a parameter (R36). -/
def LfoParam.slot : LfoParam → RegAddr
  | .sineRate k => sineRateSlot k
  | .sineRange k => sineRangeSlot k
  | .rampRate k => rampRateSlot k
  | .rampRange k => rampRangeSlot k

/-- The value of a parameter as its slot holds it (R37). -/
def LfoParam.value (s : State) : LfoParam → Word
  | .sineRate k => BitVec.ofNat 32 (s.sine k).rate
  | .sineRange k => BitVec.ofNat 32 (s.sine k).range
  | .rampRate k => BitVec.ofInt 32 (s.ramp k).rate
  | .rampRange k => BitVec.ofNat 32 (s.ramp k).range.toNat

/-- The role the register map gives the slot of a parameter (R36). -/
def LfoParam.role : LfoParam → SlotRole
  | .sineRate k => .sineRate k
  | .sineRange k => .sineRange k
  | .rampRate k => .rampRate k
  | .rampRange k => .rampRange k

/-- The register map and the slots of the parameters agree. -/
theorem slotRole_slot (p : LfoParam) : slotRole p.slot = p.role := by
  cases p with
  | sineRate k | sineRange k => cases k <;> rfl
  | rampRate k | rampRange k => cases k <;> rfl

/-- The slots of the parameters lie below every other slot (R36). -/
theorem slot_toNat_lt (p : LfoParam) : p.slot.toNat < 8 := by
  cases p with
  | sineRate k | sineRange k => cases k <;> decide
  | rampRate k | rampRange k => cases k <;> decide

/-- Two parameters with one slot are the same. -/
theorem slot_injective {p q : LfoParam} (h : p.slot = q.slot) : p = q := by
  have hrole : p.role = q.role := by rw [← slotRole_slot p, ← slotRole_slot q, h]
  cases p <;> cases q <;> cases hrole <;> rfl

/-- R37 over the eight parameters at once. -/
theorem slotsAgree_iff (s : State) : SlotsAgree s ↔ ∀ p : LfoParam, s.reg p.slot = p.value s := by
  constructor
  · intro ⟨hsine, hramp⟩ p
    cases p with
    | sineRate k => exact (hsine k).1
    | sineRange k => exact (hsine k).2
    | rampRate k => exact (hramp k).1
    | rampRange k => exact (hramp k).2
  · intro h
    exact ⟨fun k => ⟨h (.sineRate k), h (.sineRange k)⟩, fun k => ⟨h (.rampRate k), h (.rampRange k)⟩⟩

/-- An operation that sets one parameter together with its slot and reaches no other slot or parameter. -/
structure SetsParam (p : LfoParam) (s t : State) : Prop where
  otherSlots : ∀ b, b ≠ p.slot → t.reg b = s.reg b
  otherParams : ∀ q : LfoParam, q ≠ p → q.value t = q.value s
  together : t.reg p.slot = p.value t

/-- Such an operation keeps R37. -/
theorem SetsParam.slotsAgree {p : LfoParam} {s t : State} (hset : SetsParam p s t) (h : SlotsAgree s) :
    SlotsAgree t := by
  rw [slotsAgree_iff] at h ⊢
  intro q
  by_cases hq : q = p
  · exact hq ▸ hset.together
  · rw [hset.otherSlots _ fun hslot => hq (slot_injective hslot), hset.otherParams q hq, h q]

/-- A clamped value that is not negative is the same word as a signed and as a natural number. -/
theorem ofInt_clampInt_zero (hi : Nat) (v : Int) :
    BitVec.ofInt 32 (clampInt 0 hi v) = BitVec.ofNat 32 (clampInt 0 hi v).toNat := by
  have h0 := (clampInt_bounds 0 hi v (Int.natCast_nonneg hi)).1
  rw [← BitVec.ofInt_natCast, Int.toNat_of_nonneg h0]

/-! A setter reaches neither the other parameter nor the other oscillator of its kind. -/

theorem sine_setRateSine_ne (s : State) {j k : SineSel} (r : Int) (h : j ≠ k) : (setRateSine k r s).sine j = s.sine j := by
  simp [setRateSine, sine_setSine_ne _ k j _ h]

theorem sine_setRangeSine_ne (s : State) {j k : SineSel} (r : Int) (h : j ≠ k) :
    (setRangeSine k r s).sine j = s.sine j := by
  simp [setRangeSine, sine_setSine_ne _ k j _ h]

theorem ramp_setRateRamp_ne (s : State) {j k : RampSel} (r : Int) (h : j ≠ k) : (setRateRamp k r s).ramp j = s.ramp j := by
  simp [setRateRamp, ramp_setRamp_ne _ k j _ h]

theorem ramp_setRangeRamp_ne (s : State) {j k : RampSel} (a : RampRange) (h : j ≠ k) :
    (setRangeRamp k a s).ramp j = s.ramp j := by
  simp [setRangeRamp, ramp_setRamp_ne _ k j _ h]

@[simp] theorem range_setRateSine (s : State) (j k : SineSel) (r : Int) :
    ((setRateSine k r s).sine j).range = (s.sine j).range := by cases j <;> cases k <;> rfl

@[simp] theorem rate_setRangeSine (s : State) (j k : SineSel) (r : Int) :
    ((setRangeSine k r s).sine j).rate = (s.sine j).rate := by cases j <;> cases k <;> rfl

@[simp] theorem range_setRateRamp (s : State) (j k : RampSel) (r : Int) :
    ((setRateRamp k r s).ramp j).range = (s.ramp j).range := by cases j <;> cases k <;> rfl

@[simp] theorem rate_setRangeRamp (s : State) (j k : RampSel) (a : RampRange) :
    ((setRangeRamp k a s).ramp j).rate = (s.ramp j).rate := by cases j <;> cases k <;> rfl

/-! Each setter writes its slot together with its parameter (R203, R204, R208, R209). -/

theorem setRateSine_setsParam (k : SineSel) (raw : Int) (s : State) :
    SetsParam (.sineRate k) s (setRateSine k raw s) := by
  obtain ⟨hosc, hreg, hother⟩ := setRateSine_effect k raw s
  refine ⟨hother, fun q hq => ?_, ?_⟩
  · cases q with
    | sineRate j => simp [LfoParam.value, sine_setRateSine_ne s raw fun h : j = k => hq (h ▸ rfl)]
    | _ => simp [LfoParam.value]
  · simp [LfoParam.slot, LfoParam.value, hreg, hosc, ofInt_clampInt_zero]

theorem setRangeSine_setsParam (k : SineSel) (raw : Int) (s : State) :
    SetsParam (.sineRange k) s (setRangeSine k raw s) := by
  obtain ⟨hosc, hreg, hother⟩ := setRangeSine_effect k raw s
  refine ⟨hother, fun q hq => ?_, ?_⟩
  · cases q with
    | sineRange j => simp [LfoParam.value, sine_setRangeSine_ne s raw fun h : j = k => hq (h ▸ rfl)]
    | _ => simp [LfoParam.value]
  · simp [LfoParam.slot, LfoParam.value, hreg, hosc, ofInt_clampInt_zero]

theorem setRateRamp_setsParam (k : RampSel) (raw : Int) (s : State) :
    SetsParam (.rampRate k) s (setRateRamp k raw s) := by
  obtain ⟨hosc, hreg, hother⟩ := setRateRamp_effect k raw s
  refine ⟨hother, fun q hq => ?_, ?_⟩
  · cases q with
    | rampRate j => simp [LfoParam.value, ramp_setRateRamp_ne s raw fun h : j = k => hq (h ▸ rfl)]
    | _ => simp [LfoParam.value]
  · simp [LfoParam.slot, LfoParam.value, hreg, hosc]

theorem setRangeRamp_setsParam (k : RampSel) (a : RampRange) (s : State) :
    SetsParam (.rampRange k) s (setRangeRamp k a s) := by
  obtain ⟨hosc, hreg, hother⟩ := setRangeRamp_effect k a s
  refine ⟨hother, fun q hq => ?_, ?_⟩
  · cases q with
    | rampRange j => simp [LfoParam.value, ramp_setRangeRamp_ne s a fun h : j = k => hq (h ▸ rfl)]
    | _ => simp [LfoParam.value]
  · simp [LfoParam.slot, LfoParam.value, hreg, hosc]

/-! R37 under every operation. -/

/-- An operation that reaches neither the slots nor the oscillators. -/
theorem slotsAgree_congr {s t : State} (h : SlotsAgree s) (hregs : t.regs = s.regs := by simp)
    (hsine : ∀ k, t.sine k = s.sine k := by simp) (hramp : ∀ k, t.ramp k = s.ramp k := by simp) : SlotsAgree t := by
  simpa only [SlotsAgree, State.reg, hregs, hsine, hramp] using h

/-- A write of a slot that holds no parameter. -/
theorem setReg_slotsAgree (a : RegAddr) (v : Word) (s : State) (ha : ∀ p : LfoParam, p.slot ≠ a) (h : SlotsAgree s) :
    SlotsAgree (s.setReg a v) := by
  rw [slotsAgree_iff] at h ⊢
  intro p
  rw [reg_setReg_ne s a p.slot v (ha p), h p]
  cases p <;> simp [LfoParam.value]

/-- A register write keeps R37, whatever the role of its slot (R333). -/
theorem regWrite_slotsAgree (a : RegAddr) (v : Fixed) (s : State) (h : SlotsAgree s) : SlotsAgree (regWrite a v s) := by
  have stored (ha : ∀ p : LfoParam, slotRole a ≠ p.role) : SlotsAgree (s.setReg a v.raw) :=
    setReg_slotsAgree a v.raw s (fun p hp => ha p (hp ▸ slotRole_slot p)) h
  unfold regWrite
  split <;> rename_i hrole
  · exact (setRateSine_setsParam _ _ s).slotsAgree h
  · exact (setRangeSine_setsParam _ _ s).slotsAgree h
  · exact (setRateRamp_setsParam _ _ s).slotsAgree h
  · exact (setRangeRamp_setsParam _ _ _).slotsAgree (slotsAgree_congr h)
  · refine slotsAgree_congr (stored fun p => ?_)
    cases p <;> simp [hrole, LfoParam.role]
  · refine slotsAgree_congr (stored fun p => ?_)
    cases p <;> simp [hrole, LfoParam.role]
  · refine stored fun p => ?_
    cases p <;> simp [hrole, LfoParam.role]

theorem Prepared.slotsAgree {s u : State} (h : Prepared s u) (hs : SlotsAgree s) : SlotsAgree u := by
  cases h with
  | untouched | captured | read | wrote => exact slotsAgree_congr hs
  | wroteReg a => exact regWrite_slotsAgree a s.acc s.capturePacc (slotsAgree_congr hs)

/-- A ramp reset keeps the rate and the amplitude (R210). -/
theorem zeroRamp_slotsAgree (k : RampSel) (s : State) (h : SlotsAgree s) : SlotsAgree (zeroRamp k s) := by
  obtain ⟨hsine, hramp⟩ := h
  refine ⟨fun j => ?_, fun j => ?_⟩
  · simpa [State.reg] using hsine j
  · have hparams : ((zeroRamp k s).ramp j).rate = (s.ramp j).rate ∧ ((zeroRamp k s).ramp j).range = (s.ramp j).range := by
      cases k <;> cases j <;> exact ⟨rfl, rfl⟩
    rw [hparams.1, hparams.2]
    simpa [State.reg] using hramp j

theorem exec_slotsAgree (i : Instr) (s t : State) (h : exec i s = .next t) (hs : SlotsAgree s) : SlotsAgree t := by
  cases exec_effect i s t h with
  | result hu _ => exact slotsAgree_congr (hu.slotsAgree hs)
  | jump => exact hs
  | wlds k f a =>
    have hrate := (setRateSine_setsParam k f.toNat s).slotsAgree hs
    exact slotsAgree_congr ((setRangeSine_setsParam k a.toNat _).slotsAgree hrate)
  | wldr k f a =>
    have hrate := (setRateRamp_setsParam k f.toInt s).slotsAgree hs
    exact slotsAgree_congr ((setRangeRamp_setsParam k a _).slotsAgree hrate)
  | jam k => exact slotsAgree_congr (zeroRamp_slotsAgree k s hs)

/-- The host's inputs go to slots that hold no parameter (R39). -/
theorem writeInputs_slotsAgree (f : InputFrame) (s : State) (h : SlotsAgree s) : SlotsAgree (writeInputs f s) := by
  have input (a : RegAddr) (v : Word) (ha : 8 ≤ a.toNat) (u : State) (hu : SlotsAgree u) : SlotsAgree (u.setReg a v) := by
    refine setReg_slotsAgree a v u (fun p hp => ?_) hu
    have hlt := slot_toNat_lt p
    rw [hp] at hlt
    omega
  have hadc := input 0x15 f.adcr (by decide) _ (input 0x14 f.adcl (by decide) s h)
  exact input 0x12 f.pot2 (by decide) _ (input 0x11 f.pot1 (by decide) _ (input 0x10 f.pot0 (by decide) _ hadc))

/-- An advance keeps every rate and amplitude (R201, R206). -/
theorem advanceAll_slotsAgree (s : State) (h : SlotsAgree s) : SlotsAgree (advanceAll s) := by
  obtain ⟨hsine, hramp⟩ := h
  have sineAdvance (k : SineSel) : (advanceAll s).sine k = (s.sine k).advance := by cases k <;> rfl
  have rampAdvance (k : RampSel) : (advanceAll s).ramp k = (s.ramp k).advance := by cases k <;> rfl
  refine ⟨fun k => ?_, fun k => ?_⟩
  · simpa [State.reg, sineAdvance k] using hsine k
  · simpa [State.reg, rampAdvance k] using hramp k

/-- The slots of the reset state hold the reset parameters (R52). -/
theorem reset_slotsAgree : SlotsAgree State.reset := by
  refine ⟨fun k => ?_, fun k => ?_⟩ <;> cases k <;> decide

/-- Settles O56: each slot is written together with its parameter, and nothing else reaches either. -/
theorem slotsAgreeKept : Obligations.SlotsAgreeKept := by
  intro s t hs h
  exact step_keeps SlotsAgree hs h (fun i u _ hu => exec_slotsAgree i s u hu hs) hs
    (fun f _ => advanceAll_slotsAgree _ (writeInputs_slotsAgree f _ hs)) (fun _ => hs) (fun _ _ => reset_slotsAgree)

end Sys2Proof.Machine
end

section
/-! The reset state (R52). -/

namespace Sys2Proof.Machine

/-- The register file after load: 4096 in the two ramp-range slots and 0 elsewhere (R52). -/
theorem reset_reg (a : RegAddr) : State.reset.reg a = if a = 0x05#6 ∨ a = 0x07#6 then 4096#32 else 0#32 := by
  revert a
  decide

theorem sineReset_inRange : SineOsc.reset.inRange := ⟨Nat.zero_le _, Nat.zero_le _, le_refl _, by decide⟩

theorem rampReset_inRange : RampOsc.reset.inRange := ⟨Nat.zero_le _, by decide, by decide⟩

/-- The stored values of a reset oscillator are its live ones: zero amplitude and zero counter. -/
theorem sineReset_storedLive :
    SineOsc.reset.storedSin = SineOsc.reset.liveSin ∧ SineOsc.reset.storedCos = SineOsc.reset.liveCos := by
  decide +kernel

theorem rampReset_storedLive : RampOsc.reset.stored = RampOsc.reset.live := by decide +kernel

theorem sine_reset (k : SineSel) : State.reset.sine k = SineOsc.reset := by cases k <;> rfl

theorem ramp_reset (k : RampSel) : State.reset.ramp k = RampOsc.reset := by cases k <;> rfl

/-- Settles O54, row by row of the table. -/
theorem resetValues : Obligations.ResetValues :=
  ⟨rfl, rfl, rfl, rfl, rfl, rfl, reset_reg, fun _ => rfl, sine_reset, ramp_reset, rfl⟩

/-- Settles O55, one invariant after another. -/
theorem resetMeetsInvariants : Obligations.ResetMeetsInvariants := by
  refine ⟨reset_mem_wf, Nat.zero_lt_succ _, reset_slotsAgree, ?oscillators, ?stored,
    loadedState_accumulatorsClamped _ _ _, loadedState_formatsDeclared _ _ _, ?program, Nat.zero_le _, Nat.zero_le _⟩
  case oscillators => exact ⟨fun k => sine_reset k ▸ sineReset_inRange, fun k => ramp_reset k ▸ rampReset_inRange⟩
  case stored => exact ⟨fun k => sine_reset k ▸ sineReset_storedLive, fun k => ramp_reset k ▸ rampReset_storedLive⟩
  case program => exact ⟨Nat.zero_le _, fun _ hw => absurd hw List.not_mem_nil⟩

end Sys2Proof.Machine
end

section
/-! The byte image and its words (R73). -/

namespace Sys2Proof

/-- The four bytes of a word, put together again, are the word (R73). -/
theorem wordOfBytes_extractLsb' (w : Word) :
    wordOfBytes (w.extractLsb' 24 8) (w.extractLsb' 16 8) (w.extractLsb' 8 8) (w.extractLsb' 0 8) = w := by
  have htop : w.extractLsb' 24 8 ++ w.extractLsb' 16 8 = w.extractLsb' 16 16 :=
    BitVec.extractLsb'_append_extractLsb'_eq_extractLsb' (by decide)
  have hmiddle : w.extractLsb' 16 16 ++ w.extractLsb' 8 8 = w.extractLsb' 8 24 :=
    BitVec.extractLsb'_append_extractLsb'_eq_extractLsb' (by decide)
  have hwhole : w.extractLsb' 8 24 ++ w.extractLsb' 0 8 = w.extractLsb' 0 32 :=
    BitVec.extractLsb'_append_extractLsb'_eq_extractLsb' (by decide)
  rw [wordOfBytes, htop, hmiddle, hwhole, BitVec.extractLsb'_eq_self]

/-- An image that begins with the bytes of a word reads as that word and the words of the rest (R73). -/
theorem wordsOfImage_bytesOfWord_append (w : Word) (image : List Byte) :
    wordsOfImage (bytesOfWord w ++ image) = (wordsOfImage image).map (w :: ·) := by
  simp only [bytesOfWord, List.cons_append, List.nil_append, wordsOfImage, wordOfBytes_extractLsb']

/-- The image of a list of words reads back as the list (R73). -/
theorem wordsOfImage_flatMap_bytesOfWord (ws : List Word) : wordsOfImage (ws.flatMap bytesOfWord) = some ws := by
  induction ws with
  | nil => rfl
  | cons w ws ih => rw [List.flatMap_cons, wordsOfImage_bytesOfWord_append, ih, Option.map_some]

/-- Settles O7: the bytes the statement writes out are those of `bytesOfWord`. -/
theorem imageIsBigEndianWords : Obligations.ImageIsBigEndianWords := wordsOfImage_flatMap_bytesOfWord

end Sys2Proof
end

section
/-! The delay line (R74, R77, R78, R88). -/

namespace Sys2Proof.Machine

/-- The low 24 bits of a value, as a delay write stores them (R77). -/
theorem toQ_delayWord (x : Fixed) : (toQ x 0 23).1 = BitVec.ofInt 24 x.raw.toInt := by
  simp [toQ, atFraction, asr, Fixed.val]

/-- A delay word in LR: its pattern sign-extended, in format S.23 and in range (R78). -/
theorem ofDelayWord_eq (w : DelayWord) : ofDelayWord w = ⟨w.signExtend 32, 0, 23, false⟩ := by
  simp [ofDelayWord, fromQ, BitVec.signExtend]

/-- Ends of sample leave the delay memory as it is (R242). -/
@[simp] theorem endSamples_mem (n : Nat) (s : State) : (endSamples n s).mem = s.mem := by
  induction n generalizing s with
  | zero => rfl
  | succ n ih => exact ih (endOfSample s)

/-- The effective index depends on the state through DP alone, which a delay write keeps (R74, R77). -/
@[simp] theorem delayIndex_delayWrite (s : State) (a b : Int) : delayIndex (s.delayWrite b) a = delayIndex s a := rfl

/-- DP falls by one a sample, so a base `k` words further on has the same effective index `k` samples later (R74, R88). -/
theorem delayIndex_endSamples (s : State) (a k : Nat) (hdp : DelayPointerInRange s) (hk : a + k < 32768) :
    delayIndex (endSamples k s) ((a + k : Nat) : Int) = delayIndex s (a : Int) := by
  have hfall := endSamples_dp k s hdp
  rw [delayIndex_of_inRange _ _ hk, delayIndex_of_inRange _ _ (Nat.lt_of_le_of_lt (Nat.le_add_right a k) hk)]
  omega

/-- The word a tap `k` words beyond a delay write holds `k` samples later is the one written (R77, R88). -/
theorem tap_after_delayWrite (s : State) (a k : Nat) (hdp : DelayPointerInRange s) (hk : a + k < 32768)
    (hmem : s.mem.wf = true) :
    (endSamples k (s.delayWrite (a : Int))).mem.read
      (delayIndex (endSamples k (s.delayWrite (a : Int))) ((a + k : Nat) : Int)) = BitVec.ofInt 24 s.acc.raw.toInt := by
  rw [delayIndex_endSamples (s.delayWrite a) a k hdp hk, endSamples_mem, delayIndex_delayWrite,
    delayWrite_read_same s a hmem, toQ_delayWord]

/-- Settles O20: the two bases meet at one index, and a delay read there loads LR with the word that was written. -/
theorem delayLineProperty : Obligations.DelayLineProperty := by
  intro s a k hdp hk
  refine ⟨delayIndex_endSamples s a k hdp hk, fun hmem => ?_⟩
  have htap := tap_after_delayWrite s a k hdp hk hmem
  refine ⟨htap, ?_⟩
  rw [delayRead_lr, htap, ofDelayWord_eq]

end Sys2Proof.Machine
end

section
/-! The decoder, template by template (R103, R119, R120, R121). -/

namespace Sys2Proof

open Sys2Proof.Laws Sys2Proof.Claims

/-! The answer on each opcode that has a template (R103). -/

section
variable {w : Word}

theorem decodeWord_rda (h : opcodeOf w = 0x00#5) : decodeWord w = .ok (.rda (fieldA16 w) (fieldC11 w)) := by
  simp [decodeWord, h]

theorem decodeWord_rmpa (h : opcodeOf w = 0x01#5) : decodeWord w = .ok (.rmpa (fieldC11 w)) := by simp [decodeWord, h]

theorem decodeWord_wra (h : opcodeOf w = 0x02#5) : decodeWord w = .ok (.wra (fieldA16 w) (fieldC11 w)) := by
  simp [decodeWord, h]

theorem decodeWord_wrap (h : opcodeOf w = 0x03#5) : decodeWord w = .ok (.wrap (fieldA16 w) (fieldC11 w)) := by
  simp [decodeWord, h]

theorem decodeWord_rdax (h : opcodeOf w = 0x04#5) : decodeWord w = .ok (.rdax (fieldA6 w) (fieldC16 w)) := by
  simp [decodeWord, h]

theorem decodeWord_rdfx (h : opcodeOf w = 0x05#5) : decodeWord w = .ok (aliasRdfx (fieldA6 w) (fieldC16 w)) := by
  simp [decodeWord, h]

theorem decodeWord_wrax (h : opcodeOf w = 0x06#5) : decodeWord w = .ok (.wrax (fieldA6 w) (fieldC16 w)) := by
  simp [decodeWord, h]

theorem decodeWord_wrhx (h : opcodeOf w = 0x07#5) : decodeWord w = .ok (.wrhx (fieldA6 w) (fieldC16 w)) := by
  simp [decodeWord, h]

theorem decodeWord_wrlx (h : opcodeOf w = 0x08#5) : decodeWord w = .ok (.wrlx (fieldA6 w) (fieldC16 w)) := by
  simp [decodeWord, h]

theorem decodeWord_maxx (h : opcodeOf w = 0x09#5) : decodeWord w = .ok (aliasMaxx (fieldA6 w) (fieldC16 w)) := by
  simp [decodeWord, h]

theorem decodeWord_mulx (h : opcodeOf w = 0x0A#5) : decodeWord w = .ok (.mulx (fieldA6 w)) := by simp [decodeWord, h]

theorem decodeWord_log (h : opcodeOf w = 0x0B#5) : decodeWord w = .ok (.log (fieldC16 w) (fieldD11 w)) := by
  simp [decodeWord, h]

theorem decodeWord_exp (h : opcodeOf w = 0x0C#5) : decodeWord w = .ok (.exp (fieldC16 w) (fieldD11 w)) := by
  simp [decodeWord, h]

theorem decodeWord_sof (h : opcodeOf w = 0x0D#5) : decodeWord w = .ok (.sof (fieldC16 w) (fieldD11 w)) := by
  simp [decodeWord, h]

theorem decodeWord_and (h : opcodeOf w = 0x0E#5) : decodeWord w = .ok (aliasAnd (fieldM24 w)) := by
  simp [decodeWord, h]

theorem decodeWord_or (h : opcodeOf w = 0x0F#5) : decodeWord w = .ok (.or (fieldM24 w)) := by simp [decodeWord, h]

theorem decodeWord_xor (h : opcodeOf w = 0x10#5) : decodeWord w = .ok (aliasXor (fieldM24 w)) := by
  simp [decodeWord, h]

theorem decodeWord_skp (h : opcodeOf w = 0x11#5) : decodeWord w = .ok (aliasSkp (fieldSkpFlags w) (fieldN6 w)) := by
  simp [decodeWord, h]

theorem decodeWord_lfoLoad (h : opcodeOf w = 0x12#5) : decodeWord w = .ok (decodeLfoLoad w) := by simp [decodeWord, h]

theorem decodeWord_jam (h : opcodeOf w = 0x13#5) : decodeWord w = .ok (.jam (rampOfBit (w.getLsbD 6))) := by
  simp [decodeWord, h]

theorem decodeWord_cho (h : opcodeOf w = 0x14#5) : decodeWord w = .ok (decodeCho w) := by simp [decodeWord, h]

/-! Opcodes 0x12 and 0x14 by their two highest bits (R118, R120). -/

theorem fieldTop_cases (w : Word) : fieldTop w = 0#2 ∨ fieldTop w = 1#2 ∨ fieldTop w = 2#2 ∨ fieldTop w = 3#2 := by
  have hall : ∀ t : BitVec 2, t = 0#2 ∨ t = 1#2 ∨ t = 2#2 ∨ t = 3#2 := by decide
  exact hall (fieldTop w)

theorem decodeLfoLoad_wlds (h : fieldTop w = 0#2) :
    decodeLfoLoad w = .wlds (sineOfBit (w.getLsbD 29)) (w.extractLsb' 20 9) (w.extractLsb' 5 15) := by
  simp [decodeLfoLoad, h]

theorem decodeLfoLoad_wldr (h : fieldTop w ≠ 0#2) :
    decodeLfoLoad w = .wldr (rampOfBit (w.getLsbD 29)) (w.extractLsb' 13 16) (fieldRampRange w) := by
  simp [decodeLfoLoad, h]

theorem decodeCho_rda (h : fieldTop w = 0#2) :
    decodeCho w = .choRda (fieldLfo w) (fieldChoFlags w) (fieldA16 w) := by simp [decodeCho, h]

theorem decodeCho_unknown (h : fieldTop w = 1#2) : decodeCho w = .choUnknown w := by simp [decodeCho, h]

theorem decodeCho_sof (h : fieldTop w = 2#2) :
    decodeCho w = .choSof (fieldLfo w) (fieldChoFlags w) (fieldA16 w) := by simp [decodeCho, h]

theorem decodeCho_rdal (h : fieldTop w = 3#2) : decodeCho w = .choRdal (fieldLfo w) (fieldChoFlags w) := by
  simp [decodeCho, h]

end

/-! When each renamed form arises (R119). -/

theorem aliasRdfx_eq_ldax_iff (a : RegAddr) (c : BitVec 16) : aliasRdfx a c = .ldax ↔ a = 0 ∧ c = 0 := by
  simp [aliasRdfx]

theorem aliasMaxx_eq_absa_iff (a : RegAddr) (c : BitVec 16) : aliasMaxx a c = .absa ↔ a = 0 ∧ c = 0 := by
  simp [aliasMaxx]

theorem aliasAnd_eq_clr_iff (m : BitVec 24) : aliasAnd m = .clr ↔ m = 0 := by simp [aliasAnd]

theorem aliasXor_eq_not_iff (m : BitVec 24) : aliasXor m = .not ↔ m = BitVec.allOnes 24 := by simp [aliasXor]

theorem aliasSkp_eq_nop_iff (f : SkpFlags) (n : BitVec 6) : aliasSkp f n = .nop ↔ f = SkpFlags.none ∧ n = 0 := by
  simp [aliasSkp]

/-! A form that can be renamed keeps its own name exactly when it is well formed (R119). -/

theorem aliasRdfx_eq (a : RegAddr) (c : BitVec 16) :
    aliasRdfx a c = if (Instr.rdfx a c).wellFormed then .rdfx a c else .ldax := by
  simp only [aliasRdfx, Instr.wellFormed, Bool.not_eq_true', ← Bool.not_eq_true, ite_not]

theorem aliasMaxx_eq (a : RegAddr) (c : BitVec 16) :
    aliasMaxx a c = if (Instr.maxx a c).wellFormed then .maxx a c else .absa := by
  simp only [aliasMaxx, Instr.wellFormed, Bool.not_eq_true', ← Bool.not_eq_true, ite_not]

theorem aliasAnd_eq (m : BitVec 24) : aliasAnd m = if (Instr.and m).wellFormed then .and m else .clr := by
  simp [aliasAnd, Instr.wellFormed]

theorem aliasXor_eq (m : BitVec 24) : aliasXor m = if (Instr.xor m).wellFormed then .xor m else .not := by
  simp [aliasXor, Instr.wellFormed]

theorem aliasSkp_eq (f : SkpFlags) (n : BitVec 6) :
    aliasSkp f n = if (Instr.skp f n).wellFormed then .skp f n else .nop := by
  simp only [aliasSkp, Instr.wellFormed, Bool.not_eq_true', ← Bool.not_eq_true, ite_not]

/-- An instruction the decoder may answer on the word `w`: well formed and of the word's opcode. -/
def FitsWord (w : Word) (i : Instr) : Prop := i.wellFormed = true ∧ opcodeNumber i = opcodeOf w

section
variable {w : Word}

/-- An instruction that is renamed unless it is well formed fits the word under the name it gets. -/
theorem fitsWord_ite {i name : Instr} (hi : opcodeNumber i = opcodeOf w) (hname : FitsWord w name) :
    FitsWord w (if i.wellFormed then i else name) := by
  split
  case isTrue hwf => exact ⟨hwf, hi⟩
  case isFalse => exact hname

theorem decodeLfoLoad_fits (h : opcodeOf w = 0x12#5) : FitsWord w (decodeLfoLoad w) := by
  by_cases htop : fieldTop w = 0#2
  · exact decodeLfoLoad_wlds htop ▸ ⟨rfl, h.symm⟩
  · exact decodeLfoLoad_wldr htop ▸ ⟨rfl, h.symm⟩

/-- The reserved sub-command is the one answer of the decoder whose own word must be checked (R120). -/
theorem decodeCho_fits (h : opcodeOf w = 0x14#5) : FitsWord w (decodeCho w) := by
  rcases fieldTop_cases w with htop | htop | htop | htop
  · exact decodeCho_rda htop ▸ ⟨rfl, h.symm⟩
  · have hwf : (Instr.choUnknown w).wellFormed = true := by
      exact Bool.and_eq_true_iff.mpr ⟨beq_iff_eq.mpr h, beq_iff_eq.mpr htop⟩
    exact decodeCho_unknown htop ▸ ⟨hwf, h.symm⟩
  · exact decodeCho_sof htop ▸ ⟨rfl, h.symm⟩
  · exact decodeCho_rdal htop ▸ ⟨rfl, h.symm⟩

theorem opcodeOf_eq_ofNat (w : Word) : opcodeOf w = BitVec.ofNat 5 (opcodeOf w).toNat := by simp

/-- A word with a template decodes, to a well-formed instruction of its opcode (R103, R119, R121). -/
theorem decodeWord_of_templated (h : Templated w) : ∃ i, decodeWord w = .ok i ∧ FitsWord w i := by
  have hle : (opcodeOf w).toNat ≤ 0x14 := h
  have hop := opcodeOf_eq_ofNat w
  generalize (opcodeOf w).toNat = n at hle hop
  interval_cases n
  · exact ⟨_, decodeWord_rda hop, rfl, hop.symm⟩
  · exact ⟨_, decodeWord_rmpa hop, rfl, hop.symm⟩
  · exact ⟨_, decodeWord_wra hop, rfl, hop.symm⟩
  · exact ⟨_, decodeWord_wrap hop, rfl, hop.symm⟩
  · exact ⟨_, decodeWord_rdax hop, rfl, hop.symm⟩
  · exact ⟨_, decodeWord_rdfx hop, aliasRdfx_eq _ _ ▸ fitsWord_ite hop.symm ⟨rfl, hop.symm⟩⟩
  · exact ⟨_, decodeWord_wrax hop, rfl, hop.symm⟩
  · exact ⟨_, decodeWord_wrhx hop, rfl, hop.symm⟩
  · exact ⟨_, decodeWord_wrlx hop, rfl, hop.symm⟩
  · exact ⟨_, decodeWord_maxx hop, aliasMaxx_eq _ _ ▸ fitsWord_ite hop.symm ⟨rfl, hop.symm⟩⟩
  · exact ⟨_, decodeWord_mulx hop, rfl, hop.symm⟩
  · exact ⟨_, decodeWord_log hop, rfl, hop.symm⟩
  · exact ⟨_, decodeWord_exp hop, rfl, hop.symm⟩
  · exact ⟨_, decodeWord_sof hop, rfl, hop.symm⟩
  · exact ⟨_, decodeWord_and hop, aliasAnd_eq _ ▸ fitsWord_ite hop.symm ⟨rfl, hop.symm⟩⟩
  · exact ⟨_, decodeWord_or hop, rfl, hop.symm⟩
  · exact ⟨_, decodeWord_xor hop, aliasXor_eq _ ▸ fitsWord_ite hop.symm ⟨rfl, hop.symm⟩⟩
  · exact ⟨_, decodeWord_skp hop, aliasSkp_eq _ _ ▸ fitsWord_ite hop.symm ⟨rfl, hop.symm⟩⟩
  · exact ⟨_, decodeWord_lfoLoad hop, decodeLfoLoad_fits hop⟩
  · exact ⟨_, decodeWord_jam hop, rfl, hop.symm⟩
  · exact ⟨_, decodeWord_cho hop, decodeCho_fits hop⟩

theorem decodeWord_of_not_templated (h : ¬ Templated w) : decodeWord w = .error (.unknownOpcode w) := by
  obtain ⟨k, hk⟩ : ∃ k, (opcodeOf w).toNat = k + 0x15 := Nat.exists_eq_add_of_le' (Nat.lt_of_not_le h)
  rw [decodeWord, hk]
  rfl

/-- What the decoder answers is well formed and has the opcode of the word. -/
theorem fitsWord_of_decodeWord {i : Instr} (h : decodeWord w = .ok i) : FitsWord w i := by
  by_cases ht : Templated w
  · obtain ⟨j, hj, hfits⟩ := decodeWord_of_templated ht
    cases hj.symm.trans h
    exact hfits
  · cases (decodeWord_of_not_templated ht).symm.trans h

end

/-- Settles O4: the templates are the opcodes on which the decoder answers an instruction. -/
theorem decodeTotalOnTemplates : Obligations.DecodeTotalOnTemplates := by
  intro w
  refine ⟨⟨fun ⟨i, hi⟩ => ?_, fun h => ?_⟩, decodeWord_of_not_templated⟩
  · by_contra hnot
    cases (decodeWord_of_not_templated hnot).symm.trans hi
  · obtain ⟨i, hi, -⟩ := decodeWord_of_templated h
    exact ⟨i, hi⟩

end Sys2Proof
end

section
/-! The encoder's formats, and decoding after encoding (R105 to R114). -/

namespace Sys2Proof

open Sys2Proof.Laws

/-! A field of a concatenation is looked up part by part from the right: `above` steps over a part, and the field is
then the last part or the whole of what is left. -/

/-- A field that lies above the last part of a concatenation. -/
theorem extractLsb'_above {m n start len : Nat} {hi : BitVec m} {lo : BitVec n} {field : BitVec len}
    (h : hi.extractLsb' start len = field) : (hi ++ lo).extractLsb' (start + n) len = field := by
  subst h
  rw [BitVec.extractLsb'_append_eq_of_le (Nat.le_add_left n start), Nat.add_sub_cancel]

/-- A bit that lies above the last part of a concatenation. -/
theorem getLsbD_above {m n i : Nat} {hi : BitVec m} {lo : BitVec n} {b : Bool} (h : hi.getLsbD i = b) :
    (hi ++ lo).getLsbD (i + n) = b := by
  subst h
  simp [BitVec.getLsbD_append]

/-- A bit of the last part of a concatenation. -/
theorem getLsbD_last {m n i : Nat} {hi : BitVec m} {lo : BitVec n} (h : i < n) :
    (hi ++ lo).getLsbD i = lo.getLsbD i := by
  simp [BitVec.getLsbD_append, h]

/-! The fields that are read bit by bit, as functions of the bits they stand in (R110, R112, R114). -/

/-- The condition mask of five bits, RUN first (R110). -/
def SkpFlags.ofBits (b : BitVec 5) : SkpFlags :=
  { run := b.getLsbD 4, zrc := b.getLsbD 3, zro := b.getLsbD 2, gez := b.getLsbD 1, neg := b.getLsbD 0 }

/-- The CHO flags of six bits, NA first (R114). -/
def ChoFlags.ofBits (b : BitVec 6) : ChoFlags :=
  { cos := b.getLsbD 0, reg := b.getLsbD 1, compc := b.getLsbD 2, compa := b.getLsbD 3, rptr2 := b.getLsbD 4,
    na := b.getLsbD 5 }

/-- The oscillator of two selector bits (R114). -/
def LfoSel.ofBits (b : BitVec 2) : LfoSel :=
  if b.getLsbD 1 then .ramp (rampOfBit (b.getLsbD 0)) else .sine (sineOfBit (b.getLsbD 0))

/-- The amplitude of a two-bit index (R112). -/
def RampRange.ofIndex (b : BitVec 2) : RampRange :=
  if b.getLsbD 1 then (if b.getLsbD 0 then .r512 else .r1024) else (if b.getLsbD 0 then .r2048 else .r4096)

theorem fieldSkpFlags_eq (w : Word) : fieldSkpFlags w = .ofBits (w.extractLsb' 27 5) := by
  simp [fieldSkpFlags, SkpFlags.ofBits]

theorem fieldChoFlags_eq (w : Word) : fieldChoFlags w = .ofBits (w.extractLsb' 24 6) := by
  simp [fieldChoFlags, ChoFlags.ofBits]

theorem fieldLfo_eq (w : Word) : fieldLfo w = .ofBits (w.extractLsb' 21 2) := by simp [fieldLfo, LfoSel.ofBits]

theorem fieldRampRange_eq (w : Word) : fieldRampRange w = .ofIndex (w.extractLsb' 5 2) := by
  simp [fieldRampRange, RampRange.ofIndex]

@[simp] theorem SkpFlags.ofBits_bits (f : SkpFlags) : SkpFlags.ofBits f.bits = f := by
  simp only [SkpFlags.ofBits, SkpFlags.bits, BitVec.getLsbD_append]
  simp

@[simp] theorem ChoFlags.ofBits_bits (f : ChoFlags) : ChoFlags.ofBits f.bits = f := by
  simp only [ChoFlags.ofBits, ChoFlags.bits, BitVec.getLsbD_append]
  simp

@[simp] theorem LfoSel.ofBits_bits (n : LfoSel) : LfoSel.ofBits n.bits = n := by
  rcases n with (_ | _) | (_ | _) <;> rfl

@[simp] theorem RampRange.ofIndex_index (a : RampRange) : RampRange.ofIndex a.index = a := by cases a <;> rfl

/-- Only the zero mask sets no condition bit (R110). -/
theorem SkpFlags.ofBits_eq_none_iff (b : BitVec 5) : SkpFlags.ofBits b = SkpFlags.none ↔ b = 0#5 := by
  revert b
  decide

/-! The fields of each format's word (R105 to R110, R114). -/

@[simp] theorem fieldA16_encodeM (c : BitVec 11) (a : BitVec 16) (op : BitVec 5) : fieldA16 (encodeM c a op) = a :=
  extractLsb'_above BitVec.extractLsb'_append_eq_right

@[simp] theorem fieldC11_encodeM (c : BitVec 11) (a : BitVec 16) (op : BitVec 5) : fieldC11 (encodeM c a op) = c :=
  extractLsb'_above (extractLsb'_above BitVec.extractLsb'_eq_self)

@[simp] theorem fieldA6_encodeR (c : BitVec 16) (a : RegAddr) (op : BitVec 5) : fieldA6 (encodeR c a op) = a :=
  extractLsb'_above BitVec.extractLsb'_append_eq_right

@[simp] theorem fieldC16_encodeR (c : BitVec 16) (a : RegAddr) (op : BitVec 5) : fieldC16 (encodeR c a op) = c :=
  extractLsb'_above (extractLsb'_above (extractLsb'_above BitVec.extractLsb'_eq_self))

@[simp] theorem fieldA6_encodeX (a : RegAddr) (op : BitVec 5) : fieldA6 (encodeX a op) = a :=
  extractLsb'_above BitVec.extractLsb'_append_eq_right

@[simp] theorem fieldD11_encodeCD (c : BitVec 16) (d : BitVec 11) (op : BitVec 5) : fieldD11 (encodeCD c d op) = d :=
  extractLsb'_above BitVec.extractLsb'_append_eq_right

@[simp] theorem fieldC16_encodeCD (c : BitVec 16) (d : BitVec 11) (op : BitVec 5) : fieldC16 (encodeCD c d op) = c :=
  extractLsb'_above (extractLsb'_above BitVec.extractLsb'_eq_self)

@[simp] theorem fieldM24_encodeB (m : BitVec 24) (op : BitVec 5) : fieldM24 (encodeB m op) = m :=
  extractLsb'_above (extractLsb'_above BitVec.extractLsb'_eq_self)

@[simp] theorem fieldN6_encodeS (f : SkpFlags) (n : BitVec 6) : fieldN6 (encodeS f n) = n :=
  extractLsb'_above (extractLsb'_above BitVec.extractLsb'_append_eq_right)

@[simp] theorem fieldSkpFlags_encodeS (f : SkpFlags) (n : BitVec 6) : fieldSkpFlags (encodeS f n) = f := by
  have hbits : (encodeS f n).extractLsb' 27 5 = f.bits :=
    extractLsb'_above (extractLsb'_above (extractLsb'_above BitVec.extractLsb'_eq_self))
  rw [fieldSkpFlags_eq, hbits, SkpFlags.ofBits_bits]

@[simp] theorem fieldA16_encodeC (t : BitVec 2) (f : ChoFlags) (n : LfoSel) (x : BitVec 16) :
    fieldA16 (encodeC t f n x) = x :=
  extractLsb'_above BitVec.extractLsb'_append_eq_right

@[simp] theorem fieldTop_encodeC (t : BitVec 2) (f : ChoFlags) (n : LfoSel) (x : BitVec 16) :
    fieldTop (encodeC t f n x) = t :=
  extractLsb'_above (extractLsb'_above (extractLsb'_above (extractLsb'_above (extractLsb'_above
    BitVec.extractLsb'_eq_self))))

@[simp] theorem fieldLfo_encodeC (t : BitVec 2) (f : ChoFlags) (n : LfoSel) (x : BitVec 16) :
    fieldLfo (encodeC t f n x) = n := by
  have hbits : (encodeC t f n x).extractLsb' 21 2 = n.bits :=
    extractLsb'_above (extractLsb'_above BitVec.extractLsb'_append_eq_right)
  rw [fieldLfo_eq, hbits, LfoSel.ofBits_bits]

@[simp] theorem fieldChoFlags_encodeC (t : BitVec 2) (f : ChoFlags) (n : LfoSel) (x : BitVec 16) :
    fieldChoFlags (encodeC t f n x) = f := by
  have hbits : (encodeC t f n x).extractLsb' 24 6 = f.bits :=
    extractLsb'_above (extractLsb'_above (extractLsb'_above (extractLsb'_above BitVec.extractLsb'_append_eq_right)))
  rw [fieldChoFlags_eq, hbits, ChoFlags.ofBits_bits]

/-! A selector is read back from its bits (R111 to R113). -/

theorem sineOfBit_bit (k : SineSel) : sineOfBit (k.bit.getLsbD 0) = k := by cases k <;> rfl

theorem rampOfBit_bit (k : RampSel) : rampOfBit (k.bit.getLsbD 0) = k := by cases k <;> rfl

/-! Opcodes 0x12 and 0x13, whose words have no format of their own in the encoder (R111 to R113). -/

theorem decodeLfoLoad_encode_wlds (k : SineSel) (f : BitVec 9) (a : BitVec 15) :
    decodeLfoLoad (encode (.wlds k f a)) = .wlds k f a := by
  have htop : fieldTop (encode (.wlds k f a)) = 0#2 :=
    extractLsb'_above (extractLsb'_above (extractLsb'_above (extractLsb'_above BitVec.extractLsb'_eq_self)))
  have hsel : (encode (.wlds k f a)).getLsbD 29 = k.bit.getLsbD 0 :=
    getLsbD_above (getLsbD_above (getLsbD_above (getLsbD_last (by decide))))
  have hrate : (encode (.wlds k f a)).extractLsb' 20 9 = f :=
    extractLsb'_above (extractLsb'_above BitVec.extractLsb'_append_eq_right)
  have hrange : (encode (.wlds k f a)).extractLsb' 5 15 = a := extractLsb'_above BitVec.extractLsb'_append_eq_right
  rw [decodeLfoLoad_wlds htop, hsel, sineOfBit_bit, hrate, hrange]

theorem decodeLfoLoad_encode_wldr (k : RampSel) (f : BitVec 16) (a : RampRange) :
    decodeLfoLoad (encode (.wldr k f a)) = .wldr k f a := by
  have htop : fieldTop (encode (.wldr k f a)) = 1#2 :=
    extractLsb'_above (extractLsb'_above (extractLsb'_above (extractLsb'_above (extractLsb'_above
      BitVec.extractLsb'_eq_self))))
  have hsel : (encode (.wldr k f a)).getLsbD 29 = k.bit.getLsbD 0 :=
    getLsbD_above (getLsbD_above (getLsbD_above (getLsbD_above (getLsbD_last (by decide)))))
  have hrate : (encode (.wldr k f a)).extractLsb' 13 16 = f :=
    extractLsb'_above (extractLsb'_above (extractLsb'_above BitVec.extractLsb'_append_eq_right))
  have hrange : fieldRampRange (encode (.wldr k f a)) = a := by
    have hindex : (encode (.wldr k f a)).extractLsb' 5 2 = a.index :=
      extractLsb'_above BitVec.extractLsb'_append_eq_right
    rw [fieldRampRange_eq, hindex, RampRange.ofIndex_index]
  rw [decodeLfoLoad_wldr (by rw [htop]; decide), hsel, rampOfBit_bit, hrate, hrange]

theorem rampOfBit_encode_jam (k : RampSel) : rampOfBit ((encode (.jam k)).getLsbD 6) = k := by
  have hsel : (encode (.jam k)).getLsbD 6 = k.bit.getLsbD 0 := getLsbD_above (getLsbD_above (getLsbD_last (by decide)))
  rw [hsel, rampOfBit_bit]

/-- Settles O1: the opcode selects the template, and each format's fields are read back. -/
theorem decodeOfEncode : Obligations.DecodeOfEncode := by
  intro i h
  cases i with
  | rda a c => rw [decodeWord_rda (EncodesOpcode.rda a c h)]; simp [encode]
  | rmpa c => rw [decodeWord_rmpa (EncodesOpcode.rmpa c h)]; simp [encode]
  | wra a c => rw [decodeWord_wra (EncodesOpcode.wra a c h)]; simp [encode]
  | wrap a c => rw [decodeWord_wrap (EncodesOpcode.wrap a c h)]; simp [encode]
  | rdax a c => rw [decodeWord_rdax (EncodesOpcode.rdax a c h)]; simp [encode]
  | rdfx a c => rw [decodeWord_rdfx (EncodesOpcode.rdfx a c h), aliasRdfx_eq]; simp [encode, h]
  | ldax => rw [decodeWord_rdfx (EncodesOpcode.ldax h)]; simp [encode, aliasRdfx]
  | wrax a c => rw [decodeWord_wrax (EncodesOpcode.wrax a c h)]; simp [encode]
  | wrhx a c => rw [decodeWord_wrhx (EncodesOpcode.wrhx a c h)]; simp [encode]
  | wrlx a c => rw [decodeWord_wrlx (EncodesOpcode.wrlx a c h)]; simp [encode]
  | maxx a c => rw [decodeWord_maxx (EncodesOpcode.maxx a c h), aliasMaxx_eq]; simp [encode, h]
  | absa => rw [decodeWord_maxx (EncodesOpcode.absa h)]; simp [encode, aliasMaxx]
  | mulx a => rw [decodeWord_mulx (EncodesOpcode.mulx a h)]; simp [encode]
  | log c d => rw [decodeWord_log (EncodesOpcode.log c d h)]; simp [encode]
  | exp c d => rw [decodeWord_exp (EncodesOpcode.exp c d h)]; simp [encode]
  | sof c d => rw [decodeWord_sof (EncodesOpcode.sof c d h)]; simp [encode]
  | and m => rw [decodeWord_and (EncodesOpcode.and m h), aliasAnd_eq]; simp [encode, h]
  | clr => rw [decodeWord_and (EncodesOpcode.clr h)]; simp [encode, aliasAnd]
  | or m => rw [decodeWord_or (EncodesOpcode.or m h)]; simp [encode]
  | xor m => rw [decodeWord_xor (EncodesOpcode.xor m h), aliasXor_eq]; simp [encode, h]
  | not => rw [decodeWord_xor (EncodesOpcode.not h)]; simp [encode, aliasXor]
  | skp f n => rw [decodeWord_skp (EncodesOpcode.skp f n h), aliasSkp_eq]; simp [encode, h]
  | nop => rw [decodeWord_skp (EncodesOpcode.nop h)]; simp [encode, aliasSkp]
  | wlds k f a => rw [decodeWord_lfoLoad (EncodesOpcode.wlds k f a h), decodeLfoLoad_encode_wlds]
  | wldr k f a => rw [decodeWord_lfoLoad (EncodesOpcode.wldr k f a h), decodeLfoLoad_encode_wldr]
  | jam k => rw [decodeWord_jam (EncodesOpcode.jam k h), rampOfBit_encode_jam]
  | choRda n f a => rw [decodeWord_cho (EncodesOpcode.choRda n f a h), decodeCho_rda] <;> simp [encode]
  | choSof n f d => rw [decodeWord_cho (EncodesOpcode.choSof n f d h), decodeCho_sof] <;> simp [encode]
  | choRdal n f => rw [decodeWord_cho (EncodesOpcode.choRdal n f h), decodeCho_rdal] <;> simp [encode]
  | choUnknown w =>
    obtain ⟨-, htop⟩ := Bool.and_eq_true_iff.mp h
    exact (decodeWord_cho (EncodesOpcode.choUnknown w h)).trans
      (congrArg Except.ok (decodeCho_unknown (beq_iff_eq.mp htop)))

/-- Settles O2: the decoder's answer is well formed, so O1 applies to it. -/
theorem decodedInstructionsAreCanonical : Obligations.DecodedInstructionsAreCanonical := by
  intro w i h
  obtain ⟨hwf, -⟩ := fitsWord_of_decodeWord h
  exact ⟨hwf, decodeOfEncode i hwf⟩

end Sys2Proof
end

section
/-! When each renamed form arises (R119). -/

namespace Sys2Proof

open Sys2Proof.Laws

/-- What decodes to `i` is the words of its opcode on which the opcode's template answers `i`. -/
theorem decodeWord_eq_ok_iff {w : Word} {op : BitVec 5} {i answer : Instr}
    (htemplate : opcodeOf w = op → decodeWord w = .ok answer) (hi : opcodeNumber i = op) :
    decodeWord w = .ok i ↔ opcodeOf w = op ∧ answer = i := by
  constructor
  · intro h
    obtain ⟨-, hop⟩ := fitsWord_of_decodeWord h
    have hop : opcodeOf w = op := hop.symm.trans hi
    exact ⟨hop, Except.ok.inj ((htemplate hop).symm.trans h)⟩
  · rintro ⟨hop, rfl⟩
    exact htemplate hop

theorem append_eq_zero_iff {m n : Nat} (hi : BitVec m) (lo : BitVec n) :
    hi ++ lo = 0#(m + n) ↔ hi = 0#m ∧ lo = 0#n := by
  constructor
  · intro h
    constructor
    · rw [← BitVec.extractLsb'_append_eq_left (a := hi) (b := lo), h, BitVec.extractLsb'_zero]
    · rw [← BitVec.extractLsb'_append_eq_right (a := hi) (b := lo), h, BitVec.extractLsb'_zero]
  · rintro ⟨rfl, rfl⟩
    exact BitVec.zero_append_zero

/-- F and N of format S, one above the other, are bits [31:21] (R110). -/
theorem skpFields_eq_zero_iff (w : Word) :
    fieldSkpFlags w = SkpFlags.none ∧ fieldN6 w = 0#6 ↔ w.extractLsb' 21 11 = 0#11 := by
  have hjoin : w.extractLsb' 27 5 ++ fieldN6 w = w.extractLsb' 21 11 :=
    BitVec.extractLsb'_append_extractLsb'_eq_extractLsb' (by decide)
  rw [fieldSkpFlags_eq, SkpFlags.ofBits_eq_none_iff, ← hjoin]
  exact (append_eq_zero_iff _ _).symm

/-- Settles O3, one name after another. -/
theorem aliasesExactlyOnTheirConditions : Obligations.AliasesExactlyOnTheirConditions := by
  intro w
  refine ⟨?clr, ?not, ?ldax, ?absa, ?nop⟩
  case clr => exact (decodeWord_eq_ok_iff decodeWord_and rfl).trans (and_congr_right' (aliasAnd_eq_clr_iff _))
  case not => exact (decodeWord_eq_ok_iff decodeWord_xor rfl).trans (and_congr_right' (aliasXor_eq_not_iff _))
  case ldax => exact (decodeWord_eq_ok_iff decodeWord_rdfx rfl).trans (and_congr_right' (aliasRdfx_eq_ldax_iff _ _))
  case absa => exact (decodeWord_eq_ok_iff decodeWord_maxx rfl).trans (and_congr_right' (aliasMaxx_eq_absa_iff _ _))
  case nop =>
    exact (decodeWord_eq_ok_iff decodeWord_skp rfl).trans
      (and_congr_right' ((aliasSkp_eq_nop_iff _ _).trans (skpFields_eq_zero_iff w)))

end Sys2Proof
end

section
/-! The bits that take part in decoding (R117). -/

namespace Sys2Proof

section
variable {v w mask : Word}

/-! Two words that agree under a mask agree on every field the mask keeps. -/

theorem extractLsb'_eq_of_mask (hagree : w &&& mask = v &&& mask) {start len : Nat}
    (hkept : mask.extractLsb' start len = BitVec.allOnes len) : w.extractLsb' start len = v.extractLsb' start len := by
  have hfield := congrArg (BitVec.extractLsb' start len) hagree
  simpa only [BitVec.extractLsb'_and, hkept, BitVec.and_allOnes] using hfield

theorem getLsbD_eq_of_mask (hagree : w &&& mask = v &&& mask) {i : Nat} (hkept : mask.getLsbD i = true) :
    w.getLsbD i = v.getLsbD i := by
  have hbit := congrArg (BitVec.getLsbD · i) hagree
  simpa only [BitVec.getLsbD_and, hkept, Bool.and_true] using hbit

theorem fieldSkpFlags_eq_of_mask (hagree : w &&& mask = v &&& mask)
    (hkept : mask.extractLsb' 27 5 = BitVec.allOnes 5) : fieldSkpFlags w = fieldSkpFlags v := by
  rw [fieldSkpFlags_eq, extractLsb'_eq_of_mask hagree hkept, ← fieldSkpFlags_eq]

theorem fieldChoFlags_eq_of_mask (hagree : w &&& mask = v &&& mask)
    (hkept : mask.extractLsb' 24 6 = BitVec.allOnes 6) : fieldChoFlags w = fieldChoFlags v := by
  rw [fieldChoFlags_eq, extractLsb'_eq_of_mask hagree hkept, ← fieldChoFlags_eq]

theorem fieldLfo_eq_of_mask (hagree : w &&& mask = v &&& mask)
    (hkept : mask.extractLsb' 21 2 = BitVec.allOnes 2) : fieldLfo w = fieldLfo v := by
  rw [fieldLfo_eq, extractLsb'_eq_of_mask hagree hkept, ← fieldLfo_eq]

theorem fieldRampRange_eq_of_mask (hagree : w &&& mask = v &&& mask)
    (hkept : mask.extractLsb' 5 2 = BitVec.allOnes 2) : fieldRampRange w = fieldRampRange v := by
  rw [fieldRampRange_eq, extractLsb'_eq_of_mask hagree hkept, ← fieldRampRange_eq]

end

/-! Per template, two words that agree on its fields decode alike. -/

section
variable {v w : Word}

/-- Format R decodes by the opcode, A and C (R106). -/
theorem decodeWord_congr_formatR (hop : opcodeOf w = opcodeOf v) (hlo : 0x04 ≤ (opcodeOf w).toNat)
    (hhi : (opcodeOf w).toNat ≤ 0x09) (ha : fieldA6 w = fieldA6 v) (hc : fieldC16 w = fieldC16 v) :
    decodeWord w = decodeWord v := by
  have hw := opcodeOf_eq_ofNat w
  generalize (opcodeOf w).toNat = n at hlo hhi hw
  have hv := hop ▸ hw
  interval_cases n
  · rw [decodeWord_rdax hw, decodeWord_rdax hv, ha, hc]
  · rw [decodeWord_rdfx hw, decodeWord_rdfx hv, ha, hc]
  · rw [decodeWord_wrax hw, decodeWord_wrax hv, ha, hc]
  · rw [decodeWord_wrhx hw, decodeWord_wrhx hv, ha, hc]
  · rw [decodeWord_wrlx hw, decodeWord_wrlx hv, ha, hc]
  · rw [decodeWord_maxx hw, decodeWord_maxx hv, ha, hc]

/-- Format B decodes by the opcode and M (R109). -/
theorem decodeWord_congr_formatB (hop : opcodeOf w = opcodeOf v) (hlo : 0x0E ≤ (opcodeOf w).toNat)
    (hhi : (opcodeOf w).toNat ≤ 0x10) (hm : fieldM24 w = fieldM24 v) : decodeWord w = decodeWord v := by
  have hw := opcodeOf_eq_ofNat w
  generalize (opcodeOf w).toNat = n at hlo hhi hw
  have hv := hop ▸ hw
  interval_cases n
  · rw [decodeWord_and hw, decodeWord_and hv, hm]
  · rw [decodeWord_or hw, decodeWord_or hv, hm]
  · rw [decodeWord_xor hw, decodeWord_xor hv, hm]

/-- WLDR decodes by the oscillator, F and A, whichever non-zero value the two highest bits hold (R112, R118). -/
theorem decodeLfoLoad_congr_wldr (htop : fieldTop w ≠ 0#2) (htops : fieldTop w = fieldTop v)
    (hsel : w.getLsbD 29 = v.getLsbD 29) (hf : w.extractLsb' 13 16 = v.extractLsb' 13 16)
    (ha : fieldRampRange w = fieldRampRange v) : decodeLfoLoad w = decodeLfoLoad v := by
  rw [decodeLfoLoad_wldr htop, decodeLfoLoad_wldr (htops ▸ htop), hsel, hf, ha]

/-- CHO decodes by T, F, N and, but for the sub-command RDAL, X; the reserved sub-command keeps its whole word
(R114, R120). -/
theorem decodeCho_eq_of_mask {mask : Word} (hagree : w &&& mask = v &&& mask)
    (ht : mask.extractLsb' 30 2 = BitVec.allOnes 2) (hf : mask.extractLsb' 24 6 = BitVec.allOnes 6)
    (hn : mask.extractLsb' 21 2 = BitVec.allOnes 2) (hknown : fieldTop w ≠ 1#2)
    (hx : fieldTop w ≠ 3#2 → mask.extractLsb' 5 16 = BitVec.allOnes 16) : decodeCho w = decodeCho v := by
  have htop : fieldTop v = fieldTop w := (extractLsb'_eq_of_mask hagree ht).symm
  have hflags := fieldChoFlags_eq_of_mask hagree hf
  have hlfo := fieldLfo_eq_of_mask hagree hn
  have hfieldX (h : fieldTop w ≠ 3#2) : fieldA16 w = fieldA16 v := extractLsb'_eq_of_mask hagree (hx h)
  rcases fieldTop_cases w with h | h | h | h
  · rw [decodeCho_rda h, decodeCho_rda (htop.trans h), hlfo, hflags, hfieldX (by simp [h])]
  · exact absurd h hknown
  · rw [decodeCho_sof h, decodeCho_sof (htop.trans h), hlfo, hflags, hfieldX (by simp [h])]
  · rw [decodeCho_rdal h, decodeCho_rdal (htop.trans h), hlfo, hflags]

/-- The two highest bits, one by one (R118, R120). -/
theorem fieldTop_eq (w : Word) : fieldTop w = BitVec.ofBool (w.getLsbD 31) ++ BitVec.ofBool (w.getLsbD 30) := by
  apply BitVec.eq_of_getLsbD_eq
  intro i hi
  simp only [fieldTop, BitVec.getLsbD_extractLsb', BitVec.getLsbD_append]
  interval_cases i <;> simp

end

/-- Settles O5: per template, the mask keeps every field that the decoder reads. -/
theorem ignoredBitsHaveNoEffect : Obligations.IgnoredBitsHaveNoEffect := by
  intro v w hop
  have hopv {n : BitVec 5} (hw : opcodeOf w = n) : opcodeOf v = n := hop.symm.trans hw
  refine ⟨?formatR, ?rmpa, ?mulx, ?formatB, ?skp, ?wldr, ?jam, ?choRda, ?choSof, ?choRdal⟩
  case formatR =>
    intro hlo hhi h
    exact decodeWord_congr_formatR hop hlo hhi (extractLsb'_eq_of_mask h (by decide))
      (extractLsb'_eq_of_mask h (by decide))
  case rmpa =>
    intro hw h
    have hc : fieldC11 w = fieldC11 v := extractLsb'_eq_of_mask h (by decide)
    rw [decodeWord_rmpa hw, decodeWord_rmpa (hopv hw), hc]
  case mulx =>
    intro hw h
    have ha : fieldA6 w = fieldA6 v := extractLsb'_eq_of_mask h (by decide)
    rw [decodeWord_mulx hw, decodeWord_mulx (hopv hw), ha]
  case formatB =>
    intro hlo hhi h
    exact decodeWord_congr_formatB hop hlo hhi (extractLsb'_eq_of_mask h (by decide))
  case skp =>
    intro hw h
    have hf : fieldSkpFlags w = fieldSkpFlags v := fieldSkpFlags_eq_of_mask h (by decide)
    have hn : fieldN6 w = fieldN6 v := extractLsb'_eq_of_mask h (by decide)
    rw [decodeWord_skp hw, decodeWord_skp (hopv hw), hf, hn]
  case wldr =>
    intro hw htop h
    have hwldr : decodeLfoLoad w = decodeLfoLoad v :=
      decodeLfoLoad_congr_wldr htop (extractLsb'_eq_of_mask h (by decide)) (getLsbD_eq_of_mask h (by decide))
        (extractLsb'_eq_of_mask h (by decide)) (fieldRampRange_eq_of_mask h (by decide))
    rw [decodeWord_lfoLoad hw, decodeWord_lfoLoad (hopv hw), hwldr]
  case jam =>
    intro hw h
    have hsel : w.getLsbD 6 = v.getLsbD 6 := getLsbD_eq_of_mask h (by decide)
    rw [decodeWord_jam hw, decodeWord_jam (hopv hw), hsel]
  case choRda =>
    intro hw h30 h31 h
    have hrda : fieldTop w = 0#2 := by rw [fieldTop_eq, h30, h31]; rfl
    have hcho : decodeCho w = decodeCho v :=
      decodeCho_eq_of_mask h (by decide) (by decide) (by decide) (by simp [hrda]) fun _ => by decide
    rw [decodeWord_cho hw, decodeWord_cho (hopv hw), hcho]
  case choSof =>
    intro hw h30 h31 h
    have hsof : fieldTop w = 2#2 := by rw [fieldTop_eq, h30, h31]; rfl
    have hcho : decodeCho w = decodeCho v :=
      decodeCho_eq_of_mask h (by decide) (by decide) (by decide) (by simp [hsof]) fun _ => by decide
    rw [decodeWord_cho hw, decodeWord_cho (hopv hw), hcho]
  case choRdal =>
    intro hw h30 h31 h
    have hrdal : fieldTop w = 3#2 := by rw [fieldTop_eq, h30, h31]; rfl
    have hcho : decodeCho w = decodeCho v :=
      decodeCho_eq_of_mask h (by decide) (by decide) (by decide) (by simp [hrdal]) fun hx => absurd hrdal hx
    rw [decodeWord_cho hw, decodeWord_cho (hopv hw), hcho]

end Sys2Proof
end

section
/-! The scan for a program (R130, R131, R445). -/

namespace Sys2Proof

open Sys2Proof.Machine Sys2Proof.Claims

/-! What the scan does with one word. -/

theorem beforeTerminator_cons (w : Word) (ws : List Word) :
    beforeTerminator (w :: ws) = if isTerminator w then [] else w :: beforeTerminator ws := by
  have hunfold : beforeTerminator (w :: ws) = if !isTerminator w then w :: beforeTerminator ws else [] :=
    List.takeWhile_cons
  rw [hunfold]
  cases isTerminator w <;> rfl

section
variable {k : Nat} {w : Word} {ws : List Word}

theorem decodeProgramFrom_terminator (hterm : isTerminator w = true) : decodeProgramFrom k (w :: ws) = .ok [] := by
  simp [decodeProgramFrom, hterm]

theorem decodeProgramFrom_tooLong (hterm : isTerminator w = false) :
    decodeProgramFrom 128 (w :: ws) = .error (.programTooLong 128) := by
  simp [decodeProgramFrom, hterm, maxProgramLen]

theorem decodeProgramFrom_unknown (hterm : isTerminator w = false) (hk : k < 128) (hw : ¬ Templated w) :
    decodeProgramFrom k (w :: ws) = .error (.unknownOpcode k w) := by
  simp [decodeProgramFrom, hterm, maxProgramLen, hk.ne, decodeWord_of_not_templated hw]

theorem decodeProgramFrom_templated (hterm : isTerminator w = false) (hk : k < 128) (hw : Templated w) :
    decodeProgramFrom k (w :: ws) = (decodeProgramFrom (k + 1) ws).map (w :: ·) := by
  obtain ⟨i, hi, -⟩ := decodeWord_of_templated hw
  simp [decodeProgramFrom, hterm, maxProgramLen, hk.ne, hi]

end

/-- The error of a scan that stands at index `k` before the words `ps`, which hold no terminator (R445). -/
def ScanError (k : Nat) (ps : List Word) (e : LoadError) : Prop :=
  (∃ j w, k + j < 128 ∧ ps[j]? = some w ∧ ¬ Templated w ∧ (∀ i v, i < j → ps[i]? = some v → Templated v) ∧
    e = .unknownOpcode (k + j) w) ∨
  (128 < k + ps.length ∧ (∀ i v, k + i < 128 → ps[i]? = some v → Templated v) ∧ e = .programTooLong 128)

theorem not_scanError_nil {k : Nat} (hk : k ≤ 128) (e : LoadError) : ¬ ScanError k [] e := by
  rintro (⟨j, w, -, hw, -⟩ | ⟨hlong, -⟩)
  · simp at hw
  · simp only [List.length_nil] at hlong
    omega

theorem scanError_tooLong (w : Word) (ps : List Word) (e : LoadError) :
    ScanError 128 (w :: ps) e ↔ e = .programTooLong 128 := by
  constructor
  · rintro (⟨j, v, hj, -⟩ | ⟨-, -, he⟩)
    · omega
    · exact he
  · intro he
    exact .inr ⟨by simp, fun i v hi => by omega, he⟩

theorem scanError_unknown {k : Nat} (hk : k < 128) {w : Word} (hw : ¬ Templated w) (ps : List Word) (e : LoadError) :
    ScanError k (w :: ps) e ↔ e = .unknownOpcode k w := by
  constructor
  · rintro (⟨j, v, -, hv, -, hbefore, he⟩ | ⟨-, hall, -⟩)
    · cases j with
      | zero =>
        cases hv
        exact he
      | succ j => exact absurd (hbefore 0 w (Nat.succ_pos j) rfl) hw
    · exact absurd (hall 0 w hk rfl) hw
  · intro he
    exact .inl ⟨0, w, hk, rfl, hw, fun i v hi => absurd hi (Nat.not_lt_zero i), he⟩

theorem forall_getElem?_cons_templated {w : Word} (hw : Templated w) (ps : List Word) (bound : Nat → Prop) :
    (∀ i v, bound i → (w :: ps)[i]? = some v → Templated v) ↔
      ∀ i v, bound (i + 1) → ps[i]? = some v → Templated v := by
  constructor
  · exact fun h i v hi hv => h (i + 1) v hi hv
  · intro h i v hi hv
    cases i with
    | zero => cases hv; exact hw
    | succ i => exact h i v hi hv

theorem scanError_templated {k : Nat} {w : Word} (hw : Templated w) (ps : List Word) (e : LoadError) :
    ScanError k (w :: ps) e ↔ ScanError (k + 1) ps e := by
  have hshift (i : Nat) : k + (i + 1) = k + 1 + i := by omega
  refine or_congr ⟨?unknown, ?unknownBack⟩ ?tooLong
  case unknown =>
    rintro ⟨j, v, hj, hv, hbad, hbefore, he⟩
    cases j with
    | zero =>
      cases hv
      exact absurd hw hbad
    | succ j =>
      rw [hshift] at hj he
      exact ⟨j, v, hj, hv, hbad, fun i u hi => hbefore (i + 1) u (Nat.succ_lt_succ hi), he⟩
  case unknownBack =>
    rintro ⟨j, v, hj, hv, hbad, hbefore, he⟩
    rw [← hshift] at hj he
    refine ⟨j + 1, v, hj, hv, hbad, (forall_getElem?_cons_templated hw ps (· < j + 1)).mpr fun i u hi => ?_, he⟩
    exact hbefore i u (Nat.lt_of_succ_lt_succ hi)
  case tooLong =>
    have hbound (i : Nat) : k + (i + 1) < 128 ↔ k + 1 + i < 128 := by rw [hshift]
    rw [forall_getElem?_cons_templated hw ps (k + · < 128), List.length_cons, hshift ps.length]
    simp only [hbound]

theorem exceptMap_eq_ok_iff {ε α β : Type} (f : α → β) (x : Except ε α) (b : β) :
    x.map f = .ok b ↔ ∃ a, x = .ok a ∧ f a = b := by cases x <;> simp [Except.map]

theorem exceptMap_eq_error_iff {ε α β : Type} (f : α → β) (x : Except ε α) (e : ε) :
    x.map f = .error e ↔ x = .error e := by cases x <;> simp [Except.map]

/-- What the scan answers, from any index up to the bound (R130, R131). -/
theorem decodeProgramFrom_eq_ok_iff {k : Nat} (hk : k ≤ 128) (ws p : List Word) :
    decodeProgramFrom k ws = .ok p ↔
      beforeTerminator ws = p ∧ k + (beforeTerminator ws).length ≤ 128 ∧ ∀ w ∈ beforeTerminator ws, Templated w := by
  induction ws generalizing k p with
  | nil => simpa [decodeProgramFrom, beforeTerminator] using fun _ => hk
  | cons w ws ih =>
    rw [beforeTerminator_cons]
    cases hterm : isTerminator w with
    | true => simpa [decodeProgramFrom_terminator hterm] using fun _ => hk
    | false =>
      rcases hk.eq_or_lt with rfl | hlt
      · simp [decodeProgramFrom_tooLong hterm]
      · by_cases hw : Templated w
        · have hlength : k + ((beforeTerminator ws).length + 1) = k + 1 + (beforeTerminator ws).length := by omega
          rw [decodeProgramFrom_templated hterm hlt hw, exceptMap_eq_ok_iff]
          simp [ih hlt, hw, hlength, and_comm]
        · simp [decodeProgramFrom_unknown hterm hlt hw, hw]

/-- The errors of the scan, from any index up to the bound (R445). -/
theorem decodeProgramFrom_eq_error_iff {k : Nat} (hk : k ≤ 128) (ws : List Word) (e : LoadError) :
    decodeProgramFrom k ws = .error e ↔ ScanError k (beforeTerminator ws) e := by
  induction ws generalizing k with
  | nil => exact iff_of_false nofun (not_scanError_nil hk e)
  | cons w ws ih =>
    rw [beforeTerminator_cons]
    cases hterm : isTerminator w with
    | true => exact iff_of_false (by simp [decodeProgramFrom_terminator hterm]) (not_scanError_nil hk e)
    | false =>
      rcases hk.eq_or_lt with rfl | hlt
      · simp [decodeProgramFrom_tooLong hterm, scanError_tooLong, eq_comm]
      · by_cases hw : Templated w
        · rw [decodeProgramFrom_templated hterm hlt hw, exceptMap_eq_error_iff, ih hlt]
          exact (scanError_templated hw _ e).symm
        · simp [decodeProgramFrom_unknown hterm hlt hw, scanError_unknown hlt hw, eq_comm]

/-- Settles O8: the scan from index 0, with the program named on the right-hand side. -/
theorem programIsWordsBeforeTerminator : Obligations.ProgramIsWordsBeforeTerminator := by
  intro ws p
  have hscan := decodeProgramFrom_eq_ok_iff (Nat.zero_le 128) ws p
  rw [Nat.zero_add] at hscan
  refine hscan.trans ⟨?_, ?_⟩
  · rintro ⟨rfl, hfits⟩
    exact ⟨rfl, hfits⟩
  · rintro ⟨rfl, hfits⟩
    exact ⟨rfl, hfits⟩

/-- Settles O9: the scan from index 0. -/
theorem programErrorsInScanOrder : Obligations.ProgramErrorsInScanOrder := by
  intro ws e
  have hscan := decodeProgramFrom_eq_error_iff (Nat.zero_le 128) ws e
  simp only [ScanError, Nat.zero_add] at hscan
  exact hscan

/-- Settles O6, word by word: each is a closed run of the decoder. -/
theorem sampleWordsDecode : Obligations.SampleWordsDecode := by
  refine ⟨?rda, ?wrhx, ?sof, ?skp, ?wldr, ?choRda, ?noTemplate⟩
  all_goals decide

end Sys2Proof
end

section
/-! The fixed-point unit: finished results, the Q-format round trip and the 24-bit bitwise operations (R162 to R176). -/

namespace Sys2Proof

open Sys2Proof.Machine Sys2Proof.Claims

/-! The finishing step in the statements' integer arithmetic (R161, R162). -/

theorem outOfRange_eq_outside24 (s : Int) : outOfRange s = outside24 s := by
  rw [Bool.eq_iff_iff, outOfRange_iff, outside24, decide_eq_true_iff]

/-- A pattern has 32 bits, so wrapping the exact result first does not change it. -/
theorem finishRaw_eq_ofInt_fin (clamp : Bool) (s : Int) : finishRaw clamp s = BitVec.ofInt 32 (fin clamp s) := by
  cases clamp with
  | true => rfl
  | false =>
    apply BitVec.eq_of_toInt_eq
    rw [finishRaw_unclamped_toInt, BitVec.toInt_ofInt]
    exact Int.bmod_bmod.symm

theorem finish_eq (clamp : Bool) (s : Int) (x : Fixed) :
    finish clamp s x = ⟨BitVec.ofInt 32 (fin clamp s), x.ib, x.fb, outside24 s⟩ := by
  rw [finish, finishRaw_eq_ofInt_fin, outOfRange_eq_outside24]

/-- Settles O10: each primitive is the finishing step on its exact result, which for the absolute value is a maximum. -/
theorem primitivesFinishExactResults : Obligations.PrimitivesFinishExactResults := by
  intro clamp a b
  have habs : (a.val.natAbs : Int) = max a.raw.toInt (-a.raw.toInt) := Int.natCast_natAbs a.val
  refine ⟨finish_eq clamp _ a, finish_eq clamp _ a, finish_eq clamp _ a, ?_, finish_eq clamp _ a⟩
  rw [fpAbs, habs, finish_eq]

/-! The Q-format conversions (R166, R169, R175). -/

theorem qFormatHeld_iff (i f : Nat) : qFormatHeld i f = true ↔ i ≤ 8 ∧ f ≤ 23 := by
  simp [qFormatHeld]

/-- The shift of `fromQ` is undone exactly: no fraction bit is lost in between (R175). -/
theorem atFraction_fromQ {i f : Nat} (hi : i ≤ 8) (hf : f ≤ 23) (r : BitVec (1 + i + f)) :
    atFraction (fromQ i f r) f = r.toInt := by
  rw [atFraction, asr, fromQ_val i f r hi hf]
  exact Int.mul_ediv_cancel _ (by positivity)

/-- The signed reading of an `n`-bit pattern fits `n` bits (R169). -/
theorem fitsSigned_toInt {n : Nat} (r : BitVec n) : fitsSigned n r.toInt = true := by
  have hlo := BitVec.le_toInt r
  have hhi := BitVec.toInt_lt (x := r)
  simp only [fitsSigned, Bool.and_eq_true, decide_eq_true_iff]
  exact ⟨hlo, Int.le_sub_one_of_lt hhi⟩

theorem toQ_fromQ {i f : Nat} (hi : i ≤ 8) (hf : f ≤ 23) (r : BitVec (1 + i + f)) :
    toQ (fromQ i f r) i f = (r, true) := by
  rw [toQ, atFraction_fromQ hi hf, BitVec.ofInt_toInt, fitsSigned_toInt]

/-- Settles O11: `fromQ` is the value on a held format; on any other both conversions take their refusing branch. -/
theorem qFormatRoundTrip : Obligations.QFormatRoundTrip := by
  intro i f r
  constructor
  · intro hi hf
    have hheld := (qFormatHeld_iff i f).mpr ⟨hi, hf⟩
    refine ⟨fromQ i f r, if_pos hheld, fromQ_val i f r hi hf, ?_⟩
    rw [toQFormat, if_pos hheld, toQ_fromQ hi hf]
  · intro hwide
    have hrefused : ¬ qFormatHeld i f = true := by
      rw [qFormatHeld_iff]
      omega
    exact ⟨if_neg hrefused, fun x => if_neg hrefused⟩

/-! The bitwise primitives on sign-extended 24-bit words (R171). -/

/-- A bitwise result that is a sign-extended 24-bit word does not set the flag. -/
theorem bitResult_signExtend (a : Fixed) (d : BitVec 24) :
    bitResult a (d.signExtend 32) = ⟨d.signExtend 32, a.ib, a.fb, false⟩ := by
  have ⟨hlo, hhi⟩ : (bitResult a (d.signExtend 32)).inData := (inData_iff_signExtend _).mpr ⟨d, rfl⟩
  have hflag : outOfRange (d.signExtend 32).toInt = false := by
    rw [Bool.eq_false_iff, ne_eq, outOfRange_iff]
    exact not_or.mpr ⟨hlo.not_gt, hhi.not_gt⟩
  rw [bitResult, hflag]

/-- Settles O12: sign extension commutes with the three operations, so each result is a sign-extended 24-bit word. -/
theorem bitwiseIs24BitInRange : Obligations.BitwiseIs24BitInRange := by
  intro x a m hx
  have hand : fpAnd a m = bitResult a ((x &&& m).signExtend 32) := by rw [fpAnd, hx, BitVec.signExtend_and]
  have hor : fpOr a m = bitResult a ((x ||| m).signExtend 32) := by rw [fpOr, hx, BitVec.signExtend_or]
  have hxor : fpXor a m = bitResult a ((x ^^^ m).signExtend 32) := by rw [fpXor, hx, BitVec.signExtend_xor]
  simp only [hand, hor, hxor, bitResult_signExtend, and_self]

end Sys2Proof
end

section
/-! The oscillators (R200 to R213): what an advance and a ramp reset leave, and the invariants that speak of each
oscillator by itself. -/

namespace Sys2Proof.Machine

/-! The reset of a ramp (R210). -/

theorem Real64.ofRatio_zero (q : Nat) : Real64.ofRatio 0 q = Real64.zero := by
  simp [Real64.ofRatio, roundQuot, roundNat, Real64.zero]

/-- A ramp at counter 0 has the live value 0 (R207). -/
theorem zeroCounter_eq (o : RampOsc) : o.zeroCounter = ⟨0, o.rate, o.range, Real64.zero⟩ := by
  have hlive : RampOsc.live { o with counter := 0 } = Real64.zero := Real64.ofRatio_zero _
  rw [RampOsc.zeroCounter, RampOsc.refresh, hlive]

/-- JAM replaces its ramp by the reset one and advances IP (R362). -/
theorem exec_jam (k : RampSel) (s : State) :
    exec (.jam k) s = .next (s.setRamp k ⟨0, (s.ramp k).rate, (s.ramp k).range, Real64.zero⟩).nextIp := by
  rw [← zeroCounter_eq]
  rfl

/-- Settles O30, for each of the two ramps. -/
theorem jamResult : Obligations.JamResult := fun s => ⟨exec_jam .rmp0 s, exec_jam .rmp1 s⟩

/-! An advance (R201, R206). -/

/-- Settles O31: the counter is the remainder of the exact difference, and the stored value is the live one. -/
theorem rampAdvanceIsModular : Obligations.RampAdvanceIsModular := by
  intro o
  have hcounter := advanceCounter_val o.counter o.rate
  rw [← ramp_advance_counter] at hcounter
  refine ⟨?modular, ?bound, ramp_advance_rate o, ramp_advance_range o, ?stored⟩
  case modular => omega
  case bound => omega
  case stored => exact (ramp_refresh_stored _).trans (RampOsc.live_eq _)

theorem advanceAngle_of_lt {a : Real64} {kf : Nat} (h : (a.add (sinDelta kf)).units < Real64.twoPi.units) :
    advanceAngle a kf = a.add (sinDelta kf) :=
  if_pos (decide_eq_true h)

theorem advanceAngle_of_le {a : Real64} {kf : Nat} (h : Real64.twoPi.units ≤ (a.add (sinDelta kf)).units) :
    advanceAngle a kf = (a.add (sinDelta kf)).sub Real64.twoPi :=
  if_neg fun hlt => (of_decide_eq_true hlt).not_ge h

/-- A sine oscillator in range advances into its range (R200, R201). -/
theorem sine_advance_inRange {o : SineOsc} (h : o.inRange) : o.advance.inRange := by
  obtain ⟨hrate, hrange, hlo, hhi⟩ := h
  rw [SineOsc.inRange, sine_advance_rate, sine_advance_range, sine_advance_angle]
  exact ⟨hrate, hrange, advanceAngle_bounds o.angle o.rate hrate hlo hhi⟩

/-- A ramp with its rate in range advances into its range, whatever its counter (R205, R206). -/
theorem ramp_advance_inRange {o : RampOsc} (h : o.inRange) : o.advance.inRange := by
  obtain ⟨-, hrate⟩ := h
  rw [RampOsc.inRange, ramp_advance_counter, ramp_advance_rate]
  exact ⟨advanceCounter_le o.counter o.rate, hrate⟩

/-- Settles O32: the two cases are the branches of `advanceAngle`, which ends in the circle by `advanceAngle_bounds`. -/
theorem sineAdvanceStaysInCircle : Obligations.SineAdvanceStaysInCircle := by
  intro o ho
  refine ⟨?below, ?beyond, sine_advance_inRange ho, sine_advance_rate o, sine_advance_range o, ?sin, ?cos⟩
  case below => exact fun h => (sine_advance_angle o).trans (advanceAngle_of_lt h)
  case beyond => exact fun h => (sine_advance_angle o).trans (advanceAngle_of_le h)
  case sin => exact refresh_storedSin _
  case cos => exact refresh_storedCos _

/-! Predicates of each oscillator by itself. -/

/-- `P` holds of both sine oscillators and `Q` of both ramps. -/
def EachOsc (P : SineOsc → Prop) (Q : RampOsc → Prop) (s : State) : Prop := (∀ k, P (s.sine k)) ∧ ∀ k, Q (s.ramp k)

/-- What the machine does to an oscillator keeps `P` and `Q`: its reset, the setters with their clamped values, the ramp
reset and the advance (R52, R201, R203, R204, R206, R208 to R210). -/
structure OscInvariant (P : SineOsc → Prop) (Q : RampOsc → Prop) : Prop where
  sineReset : P SineOsc.reset
  rampReset : Q RampOsc.reset
  sineRate : ∀ {o : SineOsc} {n : Nat}, n ≤ sineRateMax → P o → P { o with rate := n }
  sineRange : ∀ {o : SineOsc} {n : Nat}, n ≤ sineRangeMax → P o → P { o with range := n }.refresh
  rampRate : ∀ {o : RampOsc} {r : Int}, rampRateMin ≤ r ∧ r ≤ rampRateMax → Q o → Q { o with rate := r }
  rampRange : ∀ {o : RampOsc} (a : RampRange), Q o → Q { o with range := a }
  rampZero : ∀ {o : RampOsc}, Q o → Q o.zeroCounter
  sineAdvance : ∀ {o : SineOsc}, P o → P o.advance
  rampAdvance : ∀ {o : RampOsc}, Q o → Q o.advance

@[simp] theorem sine_advanceAll (s : State) (k : SineSel) : (advanceAll s).sine k = (s.sine k).advance := by
  cases k <;> rfl

@[simp] theorem ramp_advanceAll (s : State) (k : RampSel) : (advanceAll s).ramp k = (s.ramp k).advance := by
  cases k <;> rfl

/-- A non-negative value is clamped into its range as a natural number (R203, R204). -/
theorem toNat_clampInt_le (hi : Nat) (v : Int) : (clampInt 0 hi v).toNat ≤ hi :=
  Int.toNat_le.mpr (clampInt_bounds 0 hi v (Int.natCast_nonneg hi)).2

section
variable {P : SineOsc → Prop} {Q : RampOsc → Prop} {s t : State}

/-! From one state to another by the oscillators that differ. -/

theorem EachOsc.congr (h : EachOsc P Q s) (hsine : ∀ k, t.sine k = s.sine k := by simp)
    (hramp : ∀ k, t.ramp k = s.ramp k := by simp) : EachOsc P Q t := by
  simpa only [EachOsc, hsine, hramp] using h

theorem EachOsc.congr_sine (h : EachOsc P Q s) (k : SineSel) (hk : P (t.sine k))
    (hother : ∀ j, j ≠ k → t.sine j = s.sine j) (hramp : ∀ j, t.ramp j = s.ramp j := by simp) : EachOsc P Q t := by
  obtain ⟨hP, hQ⟩ := h
  refine ⟨fun j => ?_, fun j => hramp j ▸ hQ j⟩
  by_cases hj : j = k
  · exact hj ▸ hk
  · exact hother j hj ▸ hP j

theorem EachOsc.congr_ramp (h : EachOsc P Q s) (k : RampSel) (hk : Q (t.ramp k))
    (hother : ∀ j, j ≠ k → t.ramp j = s.ramp j) (hsine : ∀ j, t.sine j = s.sine j := by simp) : EachOsc P Q t := by
  obtain ⟨hP, hQ⟩ := h
  refine ⟨fun j => hsine j ▸ hP j, fun j => ?_⟩
  by_cases hj : j = k
  · exact hj ▸ hk
  · exact hother j hj ▸ hQ j

/-! An invariant of the oscillators under every operation. -/

theorem OscInvariant.setRateSine_keeps (inv : OscInvariant P Q) (k : SineSel) (raw : Int) (h : EachOsc P Q s) :
    EachOsc P Q (setRateSine k raw s) := by
  refine h.congr_sine k ?_ fun _ => sine_setRateSine_ne s raw
  obtain ⟨hosc, -⟩ := setRateSine_effect k raw s
  rw [hosc]
  exact inv.sineRate (toNat_clampInt_le _ raw) (h.1 k)

theorem OscInvariant.setRangeSine_keeps (inv : OscInvariant P Q) (k : SineSel) (raw : Int) (h : EachOsc P Q s) :
    EachOsc P Q (setRangeSine k raw s) := by
  refine h.congr_sine k ?_ fun _ => sine_setRangeSine_ne s raw
  obtain ⟨hosc, -⟩ := setRangeSine_effect k raw s
  rw [hosc]
  exact inv.sineRange (toNat_clampInt_le _ raw) (h.1 k)

theorem OscInvariant.setRateRamp_keeps (inv : OscInvariant P Q) (k : RampSel) (raw : Int) (h : EachOsc P Q s) :
    EachOsc P Q (setRateRamp k raw s) := by
  refine h.congr_ramp k ?_ fun _ => ramp_setRateRamp_ne s raw
  obtain ⟨hosc, -⟩ := setRateRamp_effect k raw s
  rw [hosc]
  exact inv.rampRate (clampInt_bounds _ _ raw (by decide)) (h.2 k)

theorem OscInvariant.setRangeRamp_keeps (inv : OscInvariant P Q) (k : RampSel) (a : RampRange) (h : EachOsc P Q s) :
    EachOsc P Q (setRangeRamp k a s) := by
  refine h.congr_ramp k ?_ fun _ => ramp_setRangeRamp_ne s a
  obtain ⟨hosc, -⟩ := setRangeRamp_effect k a s
  rw [hosc]
  exact inv.rampRange a (h.2 k)

theorem OscInvariant.zeroRamp_keeps (inv : OscInvariant P Q) (k : RampSel) (h : EachOsc P Q s) :
    EachOsc P Q (zeroRamp k s) := by
  refine h.congr_ramp k ?_ fun j => ramp_zeroRamp_ne s k j
  rw [zeroRamp, ramp_setRamp_same]
  exact inv.rampZero (h.2 k)

/-- A register write reaches an oscillator through the setter of its slot alone (R333). -/
theorem OscInvariant.regWrite_keeps (inv : OscInvariant P Q) (a : RegAddr) (v : Fixed) (h : EachOsc P Q s) :
    EachOsc P Q (regWrite a v s) := by
  unfold regWrite
  split
  · exact inv.setRateSine_keeps _ _ h
  · exact inv.setRangeSine_keeps _ _ h
  · exact inv.setRateRamp_keeps _ _ h
  · exact inv.setRangeRamp_keeps _ _ h.congr
  · exact h.congr
  · exact h.congr
  · exact h.congr

theorem OscInvariant.prepared_keeps (inv : OscInvariant P Q) (hu : Prepared s t) (h : EachOsc P Q s) : EachOsc P Q t := by
  cases hu with
  | untouched | captured | read | wrote => exact h.congr
  | wroteReg a => exact inv.regWrite_keeps a s.acc h.congr

theorem OscInvariant.exec_keeps (inv : OscInvariant P Q) {i : Instr} (hi : exec i s = .next t) (h : EachOsc P Q s) :
    EachOsc P Q t := by
  cases exec_effect i s t hi with
  | result hu _ => exact (inv.prepared_keeps hu h).congr
  | jump => exact h
  | wlds k f a => exact (inv.setRangeSine_keeps k a.toNat (inv.setRateSine_keeps k f.toNat h)).congr
  | wldr k f a => exact (inv.setRangeRamp_keeps k a (inv.setRateRamp_keeps k f.toInt h)).congr
  | jam k => exact (inv.zeroRamp_keeps k h).congr

theorem OscInvariant.advanceAll_keeps (inv : OscInvariant P Q) (h : EachOsc P Q s) : EachOsc P Q (advanceAll s) := by
  obtain ⟨hP, hQ⟩ := h
  refine ⟨fun k => ?_, fun k => ?_⟩
  · rw [sine_advanceAll]
    exact inv.sineAdvance (hP k)
  · rw [ramp_advanceAll]
    exact inv.rampAdvance (hQ k)

/-- The inputs go to register slots, so a frame only advances the oscillators (R476). -/
theorem OscInvariant.beginFrame_keeps (inv : OscInvariant P Q) (f : InputFrame) (h : EachOsc P Q s) :
    EachOsc P Q (beginFrame f s) := by
  have hinputs : EachOsc P Q (writeInputs f s) := h.congr (by simp [writeInputs]) (by simp [writeInputs])
  exact inv.advanceAll_keeps hinputs

/-- A load resets the four oscillators (R470). -/
theorem OscInvariant.loadedState_holds (inv : OscInvariant P Q) (cfg : Config) (program : List Word)
    (host : List HostCommand) : EachOsc P Q (loadedState cfg program host) :=
  ⟨fun k => (sine_reset k).symm ▸ inv.sineReset, fun k => (ramp_reset k).symm ▸ inv.rampReset⟩

/-- Every step keeps an invariant of the oscillators. -/
theorem OscInvariant.step_keeps (inv : OscInvariant P Q) (h : step s = .next t) (hs : EachOsc P Q s) : EachOsc P Q t :=
  Machine.step_keeps (EachOsc P Q) hs h (fun _ u _ hu => inv.exec_keeps (t := u) hu hs) hs
    (fun f _ => inv.beginFrame_keeps f hs) (fun _ => hs) (fun _ _ => inv.loadedState_holds _ _ _)

end

/-! Stored values (R212). -/

/-- The stored values of one oscillator are its live values (R212). -/
def SineOsc.storedLive (o : SineOsc) : Prop := o.storedSin = o.liveSin ∧ o.storedCos = o.liveCos

def RampOsc.storedLive (o : RampOsc) : Prop := o.stored = o.live

theorem storedLive_iff (s : State) : StoredLive s ↔ EachOsc SineOsc.storedLive RampOsc.storedLive s := Iff.rfl

theorem sine_refresh_storedLive (o : SineOsc) : o.refresh.storedLive := ⟨refresh_storedSin o, refresh_storedCos o⟩

theorem ramp_refresh_storedLive (o : RampOsc) : o.refresh.storedLive := ramp_refresh_stored o

/-- What a live value depends on is written together with a refresh; a rate and a ramp's amplitude are no part of it. -/
theorem storedLive_invariant : OscInvariant SineOsc.storedLive RampOsc.storedLive where
  sineReset := sineReset_storedLive
  rampReset := rampReset_storedLive
  sineRate _ h := h
  sineRange _ _ := sine_refresh_storedLive _
  rampRate _ h := h
  rampRange _ h := h
  rampZero _ := ramp_refresh_storedLive _
  sineAdvance _ := sine_refresh_storedLive _
  rampAdvance _ := ramp_refresh_storedLive _

/-- Settles O57: equality of the stored and the live values is an invariant of the oscillators. -/
theorem storedLiveKept : Obligations.StoredLiveKept := by
  intro s t hs h
  rw [storedLive_iff] at hs ⊢
  exact storedLive_invariant.step_keeps h hs

/-! Ranges (R200, R205). -/

theorem oscillatorsInRange_iff (s : State) : OscillatorsInRange s ↔ EachOsc SineOsc.inRange RampOsc.inRange s := Iff.rfl

/-- The setters clamp, a reset counter is 0, and an advance stays in the circle and modulo the wrap value. -/
theorem inRange_invariant : OscInvariant SineOsc.inRange RampOsc.inRange where
  sineReset := sineReset_inRange
  rampReset := rampReset_inRange
  sineRate hn := fun ⟨_, hrange, hangle⟩ => ⟨hn, hrange, hangle⟩
  sineRange hn := fun ⟨hrate, _, hangle⟩ => ⟨hrate, hn, hangle⟩
  rampRate hr := fun ⟨hcounter, _⟩ => ⟨hcounter, hr⟩
  rampRange _ h := h
  rampZero := fun ⟨_, hrate⟩ => ⟨Nat.zero_le _, hrate⟩
  sineAdvance := sine_advance_inRange
  rampAdvance := ramp_advance_inRange

/-- Settles O58: lying in its ranges is an invariant of the oscillators. -/
theorem oscillatorRangesKept : Obligations.OscillatorRangesKept := by
  intro s t hs h
  rw [oscillatorsInRange_iff] at hs ⊢
  exact inRange_invariant.step_keeps h hs

end Sys2Proof.Machine
end

section
/-! The engine's step by its cases (R241, R242, R249, R255, R455, R457). -/

namespace Sys2Proof.Machine

section
variable {s : State}

theorem step_betweenSamples (h : s.phase = .betweenSamples) : step s = hostStep s := by simp [step, engineStep, h]

theorem step_inSample (h : s.phase = .inSample) : step s = sampleStep s := by simp [step, engineStep, h]

theorem hostStep_idle (h : s.host = []) : hostStep s = .next s := by simp [hostStep, h]

theorem hostStep_frame {f : InputFrame} {rest : List HostCommand} (h : s.host = .frame f :: rest) :
    hostStep s = .next (beginFrame f { s with host := rest }) := by simp [hostStep, h]

theorem hostStep_resetDiagnostics {rest : List HostCommand} (h : s.host = .resetDiagnostics :: rest) :
    hostStep s = .next (resetDiagnostics { s with host := rest }) := by simp [hostStep, h]

theorem hostStep_load {image : List Byte} {rest : List HostCommand} (h : s.host = .load image :: rest) :
    hostStep s = loadProgram image s.cfg rest := by simp [hostStep, h]

theorem sampleStep_end (h : fetch s = none) : sampleStep s = .next (leaveSample s) := by simp [sampleStep, h]

theorem sampleStep_ceiling {w : Word} (hw : fetch s = some w) (hs : maxStepsPerSample ≤ s.steps) :
    sampleStep s = .fault (.stepCeilingExceeded s.ip) := by simp [sampleStep, hw, hs, raise]

theorem sampleStep_word {w : Word} (hw : fetch s = some w) (hs : s.steps < maxStepsPerSample) :
    sampleStep s = executeWord w s := by simp [sampleStep, hw, Nat.not_le.mpr hs]

end

/-- An outcome with one more step counted in its next state (R241). -/
def countStepOutcome : Host.Outcome State Fault Refusal → Host.Outcome State Fault Refusal
  | .next t => .next t.countStep
  | .fault e => .fault e
  | .refused r => .refused r

theorem executeWord_eq_countStepOutcome {w : Word} {i : Instr} (h : decodeWord w = .ok i) (s : State) :
    executeWord w s = countStepOutcome (exec i s) := by
  cases he : exec i s <;> simp [executeWord, countStepOutcome, h, he]

/-- The bytes of a word decode as the word, with nothing left over (R73, R101). -/
theorem decodeBytes_bytesOfWord (w : Word) : decodeBytes (bytesOfWord w) = (decodeWord w).map (·, []) := by
  simp only [bytesOfWord, decodeBytes, wordOfBytes_extractLsb']

/-- Settles O46: below the ceiling the word's bytes decode as the word that is executed. -/
theorem stepRunsDecodedInstruction : Obligations.StepRunsDecodedInstruction := by
  intro s w hphase hw
  refine ⟨fun hs i hi => ?_, fun hs => (step_inSample hphase).trans (sampleStep_ceiling hw hs)⟩
  rw [decodeBytes_bytesOfWord, exceptMap_eq_ok_iff] at hi
  obtain ⟨j, hj, heq⟩ := hi
  cases heq
  rw [step_inSample hphase, sampleStep_word hw hs, executeWord_eq_countStepOutcome hj]
  cases exec i s <;> rfl

/-- DP after the end of a sample, in the statements' arithmetic (R242). -/
theorem endOfSample_dp_eq (s : State) (h : s.dp < 32768) :
    (endOfSample s).dp = if s.dp = 0 then 32767 else s.dp - 1 := by
  have := endOfSample_dp s
  split <;> omega

/-- Settles O47: with nothing to fetch the step leaves the sample. -/
theorem sampleEnds : Obligations.SampleEnds := by
  intro s hphase hip hdp
  have hfetch : fetch s = none := List.getElem?_eq_none hip
  rw [step_inSample hphase, sampleStep_end hfetch, ← endOfSample_dp_eq s hdp]
  rfl

/-- Settles O51: the host's turn with a reset pending, and with nothing pending. -/
theorem hostResetAndIdle : Obligations.HostResetAndIdle := by
  intro s hphase
  rw [step_betweenSamples hphase]
  exact ⟨fun _ hhost => hostStep_resetDiagnostics hhost, hostStep_idle⟩

end Sys2Proof.Machine
end

section
/-! PACC and IP after each instruction (R244, R247, R380). -/

namespace Sys2Proof.Machine

section
variable {n : LfoSel} {f : ChoFlags} {s t : State}

/-! A CHO instruction that answers a next state has evaluated its LFO without an error (R405). -/

theorem execChoRda_next {a : DelayAddr} (h : execChoRda n f a s = .next t) :
    ∃ r, choEval s n f = .ok r ∧
      t = readAccumulate (a.toNat + r.offset) (fromReal r.coef) (s.countClamps r.clamps) := by
  unfold execChoRda at h
  split at h
  · cases h
  next r hr => cases h; exact ⟨r, hr, rfl⟩

theorem execChoSof_next {d : BitVec 16} (h : execChoSof n f d s = .next t) :
    ∃ r p q, choEval s n f = .ok r ∧ t = (s.countClamps r.clamps).capturePacc.finishAcc [p, q] q := by
  unfold execChoSof at h
  split at h
  · cases h
  next r hr => cases h; exact ⟨r, _, _, hr, rfl⟩

theorem execChoRdal_next (h : execChoRdal n f s = .next t) :
    ∃ r v, choEval s n f = .ok r ∧ t = (s.countClamps r.clamps).capturePacc.finishAcc [v] v := by
  unfold execChoRdal at h
  split at h
  · cases h
  next r hr => cases h; exact ⟨r, _, hr, rfl⟩

end

/-! PACC and IP after the operations several instructions share. -/

section
variable (s : State) (x cv dv : Fixed) (a : Int)

@[simp] theorem readAccumulate_pacc : (readAccumulate a cv s).pacc = s.acc := rfl
@[simp] theorem readAccumulate_ip : (readAccumulate a cv s).ip = s.ip + 1 := rfl
@[simp] theorem filterRegister_pacc : (filterRegister x cv s).pacc = s.acc := rfl
@[simp] theorem filterRegister_ip : (filterRegister x cv s).ip = s.ip + 1 := rfl
@[simp] theorem maxRegister_pacc : (maxRegister x cv s).pacc = s.acc := rfl
@[simp] theorem maxRegister_ip : (maxRegister x cv s).ip = s.ip + 1 := rfl
@[simp] theorem scaleOffset_pacc : (scaleOffset x cv dv s).pacc = s.acc := rfl
@[simp] theorem scaleOffset_ip : (scaleOffset x cv dv s).ip = s.ip + 1 := rfl

end

/-- An instruction that captures PACC leaves the old ACC there and goes on to the next word (R244, R247). -/
theorem exec_of_capturesPacc {i : Instr} {s t : State} (hi : capturesPacc i = true) (h : exec i s = .next t) :
    t.pacc = s.acc ∧ t.ip = s.ip + 1 := by
  cases i with
  | or | skp | nop | wlds | wldr | jam | choUnknown => cases hi
  | choRda => obtain ⟨r, -, rfl⟩ := execChoRda_next h; simp
  | choSof => obtain ⟨r, p, q, -, rfl⟩ := execChoSof_next h; simp
  | choRdal => obtain ⟨r, v, -, rfl⟩ := execChoRdal_next h; simp
  | _ => cases h; simp

/-- An instruction that does not capture keeps PACC, and goes on to the next word unless it is a SKP (R244, R247). -/
theorem exec_of_not_capturesPacc {i : Instr} {s t : State} (hi : capturesPacc i = false) (h : exec i s = .next t) :
    t.pacc = s.pacc ∧ (t.ip = s.ip + 1 ∨ ∃ f n, i = .skp f n ∧ t.ip = skipTarget f n s) := by
  cases i with
  | or | nop => cases h; exact ⟨rfl, .inl rfl⟩
  | skp f n => cases h; exact ⟨rfl, .inr ⟨f, n, rfl, rfl⟩⟩
  | wlds | wldr | jam => cases h; simp
  | choUnknown => cases h
  | _ => cases hi

/-- Settles O41, by whether the instruction captures. -/
theorem paccDiscipline : Obligations.PaccDiscipline := by
  intro i s t h
  cases hi : capturesPacc i with
  | true => exact (exec_of_capturesPacc hi h).1
  | false => exact (exec_of_not_capturesPacc hi h).1

/-- Every instruction but SKP goes on to the next word (R247, R380). -/
theorem exec_ip {i : Instr} {s t : State} (h : exec i s = .next t) :
    t.ip = s.ip + 1 ∨ ∃ f n, i = .skp f n ∧ t.ip = skipTarget f n s := by
  cases hi : capturesPacc i with
  | true => exact .inl (exec_of_capturesPacc hi h).2
  | false => exact (exec_of_not_capturesPacc hi h).2

end Sys2Proof.Machine
end

section
/-! The diagnostics under every instruction (R253). -/

namespace Sys2Proof.Machine

theorem Diag.le_refl (d : Diag) : d.le d := by simp [Diag.le]

theorem Diag.le_trans {d e f : Diag} (hde : d.le e) (hef : e.le f) : d.le f := by
  unfold Diag.le at *
  grind

/-! Each operation that touches the diagnostics adds to one counter or sets one flag. -/

theorem diag_le_capturePacc (s : State) : s.diag.le s.capturePacc.diag := by simp [Diag.le]

theorem diag_le_finishAcc (s : State) (results : List Fixed) (v : Fixed) : s.diag.le (s.finishAcc results v).diag := by
  simp [Diag.le]

theorem diag_le_countClamps (s : State) (n : Nat) : s.diag.le (s.countClamps n).diag := by simp [Diag.le]

theorem diag_le_countOob (s : State) (kind : AccessKind) (a : Int) : s.diag.le (s.countOob kind a).diag := by
  cases kind <;> simp [Diag.le, State.countOob]

theorem diag_le_delayWrite (s : State) (a : Int) : s.diag.le (s.delayWrite a).diag :=
  Diag.le_trans (diag_le_countOob s .write a) (by simp [Diag.le, State.delayWrite])

theorem diag_le_countDac (s : State) (left : Bool) (v : Fixed) : s.diag.le (s.countDac left v).diag := by
  cases left <;> simp [Diag.le, State.countDac]

theorem diag_le_flagSine (s : State) (k : SineSel) (bad : Bool) : s.diag.le (s.flagSine k bad).diag := by
  cases k <;> simp +contextual [Diag.le, State.flagSine]

theorem diag_le_flagRamp (s : State) (k : RampSel) (bad : Bool) : s.diag.le (s.flagRamp k bad).diag := by
  cases k <;> simp +contextual [Diag.le, State.flagRamp]

theorem diag_le_setRateSine (k : SineSel) (raw : Int) (s : State) : s.diag.le (setRateSine k raw s).diag := by
  simpa [setRateSine] using diag_le_flagSine s k _

theorem diag_le_setRangeSine (k : SineSel) (raw : Int) (s : State) : s.diag.le (setRangeSine k raw s).diag := by
  simpa [setRangeSine] using diag_le_flagSine s k _

theorem diag_le_setRateRamp (k : RampSel) (raw : Int) (s : State) : s.diag.le (setRateRamp k raw s).diag := by
  simpa [setRateRamp] using diag_le_flagRamp s k _

theorem diag_le_setRangeRampRaw (k : RampSel) (raw : Int) (s : State) : s.diag.le (setRangeRampRaw k raw s).diag := by
  simpa [setRangeRampRaw] using diag_le_flagRamp s k _

theorem diag_le_regWrite (a : RegAddr) (v : Fixed) (s : State) : s.diag.le (regWrite a v s).diag := by
  unfold regWrite
  split
  · exact diag_le_setRateSine _ _ s
  · exact diag_le_setRangeSine _ _ s
  · exact diag_le_setRateRamp _ _ s
  · exact diag_le_setRangeRampRaw _ _ s
  · exact diag_le_countDac (s.setReg a v.raw) true v
  · exact diag_le_countDac (s.setReg a v.raw) false v
  · exact s.diag.le_refl

theorem Prepared.diag_le {s u : State} (h : Prepared s u) : s.diag.le u.diag := by
  have captured (n : Nat) : s.diag.le (s.countClamps n).capturePacc.diag :=
    Diag.le_trans (diag_le_countClamps s n) (diag_le_capturePacc _)
  cases h with
  | untouched => exact s.diag.le_refl
  | captured n => exact captured n
  | read n a => exact Diag.le_trans (captured n) (diag_le_countOob _ .read a)
  | wrote a => exact Diag.le_trans (diag_le_capturePacc s) (diag_le_delayWrite _ a)
  | wroteReg a => exact Diag.le_trans (diag_le_capturePacc s) (diag_le_regWrite a s.acc _)

/-- Settles O45, over the shapes of an instruction's effect. -/
theorem diagnosticsOnlyGrow : Obligations.DiagnosticsOnlyGrow := by
  intro i s t h
  cases exec_effect i s t h with
  | result hu _ => exact Diag.le_trans hu.diag_le (diag_le_finishAcc _ _ _)
  | jump => exact s.diag.le_refl
  | wlds k f a => exact Diag.le_trans (diag_le_setRateSine k f.toNat s) (diag_le_setRangeSine k a.toNat _)
  | wldr k f a => simpa using diag_le_setRateRamp k f.toInt s
  | jam => simpa using s.diag.le_refl

end Sys2Proof.Machine
end

section
/-! Single steps and one `runSample` (R241, R249). -/

namespace Sys2Proof.Machine

/-- An outcome of `runSample` with the turn handed to the host, as the step that ends a sample leaves it (R249,
assumption 12). -/
def handOver : Host.Outcome State Fault Refusal → Host.Outcome State Fault Refusal
  | .next t => .next { t with ip := 0, steps := 0, phase := .betweenSamples }
  | .fault e => .fault e
  | .refused r => .refused r

/-- An executed word leaves the sample in flight and counts one step (R241). -/
theorem executeWord_counts {w : Word} {s t : State} (h : executeWord w s = .next t) :
    t.phase = s.phase ∧ t.steps = s.steps + 1 := by
  obtain ⟨i, u, -, hu, rfl⟩ := executeWord_next w s t h
  have hframe := exec_frame i s u hu
  exact ⟨hframe.phase, congrArg (· + 1) hframe.steps⟩

/-! A run of the machine, and the loop of `runSample`, by what their first step or word does. -/

section
variable {s t : State} {e : Fault} {r : Refusal}

theorem run_succ_next (k : Nat) (h : step s = .next t) : core.run (k + 1) s = core.run k t := by
  have hcore : core.step s = .next t := h
  simp only [Host.Core.run, hcore]

theorem run_succ_fault (k : Nat) (h : step s = .fault e) : core.run (k + 1) s = .fault e := by
  have hcore : core.step s = .fault e := h
  simp only [Host.Core.run, hcore]

theorem run_succ_refused (k : Nat) (h : step s = .refused r) : core.run (k + 1) s = .refused r := by
  have hcore : core.step s = .refused r := h
  simp only [Host.Core.run, hcore]

theorem runLoop_end (fuel : Nat) (h : fetch s = none) : runLoop fuel s = .next (endOfSample s) := by
  unfold runLoop
  simp [h]

theorem runLoop_ceiling {w : Word} (h : fetch s = some w) : runLoop 0 s = .fault (.stepCeilingExceeded s.ip) := by
  simp [runLoop, h, raise]

theorem runLoop_next (fuel : Nat) {w : Word} (h : fetch s = some w) (hw : executeWord w s = .next t) :
    runLoop (fuel + 1) s = runLoop fuel t := by
  rw [runLoop, h]
  simp [hw]

theorem runLoop_fault (fuel : Nat) {w : Word} (h : fetch s = some w) (hw : executeWord w s = .fault e) :
    runLoop (fuel + 1) s = .fault e := by
  simp [runLoop, h, hw]

theorem runLoop_refused (fuel : Nat) {w : Word} (h : fetch s = some w) (hw : executeWord w s = .refused r) :
    runLoop (fuel + 1) s = .refused r := by
  simp [runLoop, h, hw]

end

/-- The loop with `fuel` instructions left is at most `fuel + 1` steps of the machine: the fuel is what remains below
the step ceiling. -/
theorem run_eq_handOver_runLoop (fuel : Nat) (s : State) (hphase : s.phase = .inSample)
    (hsteps : s.steps + fuel = maxStepsPerSample) :
    ∃ k ≤ fuel + 1, core.run k s = handOver (runLoop fuel s) := by
  have hstep : step s = sampleStep s := step_inSample hphase
  cases hw : fetch s with
  | none =>
    rw [runLoop_end fuel hw]
    exact ⟨1, Nat.le_add_left 1 fuel, run_succ_next 0 (hstep.trans (sampleStep_end hw))⟩
  | some w =>
    cases fuel with
    | zero =>
      rw [runLoop_ceiling hw]
      exact ⟨1, le_rfl, run_succ_fault 0 (hstep.trans (sampleStep_ceiling hw hsteps.ge))⟩
    | succ fuel =>
      rw [sampleStep_word hw (by omega)] at hstep
      cases he : executeWord w s with
      | next t =>
        obtain ⟨htphase, htsteps⟩ := executeWord_counts he
        obtain ⟨k, hk, hrun⟩ := run_eq_handOver_runLoop fuel t (htphase.trans hphase) (by omega)
        rw [runLoop_next fuel hw he]
        exact ⟨k + 1, Nat.succ_le_succ hk, (run_succ_next k (hstep.trans he)).trans hrun⟩
      | fault e =>
        rw [runLoop_fault fuel hw he]
        exact ⟨1, Nat.le_add_left 1 _, run_succ_fault 0 (hstep.trans he)⟩
      | refused r =>
        rw [runLoop_refused fuel hw he]
        exact ⟨1, Nat.le_add_left 1 _, run_succ_refused 0 (hstep.trans he)⟩

/-- Settles O52: the whole loop from the start of the sample, read off for each kind of outcome. -/
theorem stepsRefineRunSample : Obligations.StepsRefineRunSample := by
  intro s
  obtain ⟨k, hk, hrun⟩ := run_eq_handOver_runLoop maxStepsPerSample (startSample s) rfl (Nat.zero_add _)
  have hsample : core.run k (startSample s) = handOver (runSample s) := hrun
  refine ⟨fun t ht => ⟨k, hk, ?_⟩, fun e he => ⟨k, hk, ?_⟩⟩
  · rw [hsample, ht]; rfl
  · rw [hsample, he]; rfl

end Sys2Proof.Machine
end

section
/-! The diagnostics feed nothing else (R252). -/

namespace Sys2Proof.Machine

/-- An operation that reads no diagnostic: cleared diagnostics before it change nothing but diagnostics after it. -/
def DiagBlind (op : State → State) : Prop := ∀ s, eraseDiag (op (eraseDiag s)) = eraseDiag (op s)

/-- Such an operation takes states that differ only in their diagnostics to states that do. -/
theorem DiagBlind.congr {op : State → State} (hop : DiagBlind op) {s u : State} (h : eraseDiag s = eraseDiag u) :
    eraseDiag (op s) = eraseDiag (op u) := by
  rw [← hop s, h, hop u]

/-! The operations of the instructions. -/

theorem nextIp_blind : DiagBlind State.nextIp := fun _ => rfl

theorem capturePacc_blind : DiagBlind State.capturePacc := fun _ => rfl

theorem finishAcc_blind (results : List Fixed) (v : Fixed) : DiagBlind (·.finishAcc results v) := fun _ => rfl

theorem countClamps_blind (n : Nat) : DiagBlind (·.countClamps n) := fun _ => rfl

theorem delayWrite_blind (a : Int) : DiagBlind (·.delayWrite a) := fun _ => rfl

theorem delayRead_blind (a : Int) : DiagBlind (·.delayRead a) := fun _ => rfl

theorem readAccumulate_blind (a : Int) (cv : Fixed) : DiagBlind (readAccumulate a cv) := fun s =>
  (finishAcc_blind _ _).congr ((delayRead_blind a).congr (capturePacc_blind s))

theorem filterRegister_blind (x cv : Fixed) : DiagBlind (filterRegister x cv) := fun s =>
  (finishAcc_blind _ _).congr (capturePacc_blind s)

theorem maxRegister_blind (x cv : Fixed) : DiagBlind (maxRegister x cv) := fun s =>
  (finishAcc_blind _ _).congr (capturePacc_blind s)

theorem scaleOffset_blind (x cv dv : Fixed) : DiagBlind (scaleOffset x cv dv) := fun s =>
  (finishAcc_blind _ _).congr (capturePacc_blind s)

theorem setRateSine_blind (k : SineSel) (raw : Int) : DiagBlind (setRateSine k raw) := by
  intro s
  cases k <;> rfl

theorem setRangeSine_blind (k : SineSel) (raw : Int) : DiagBlind (setRangeSine k raw) := by
  intro s
  cases k <;> rfl

theorem setRateRamp_blind (k : RampSel) (raw : Int) : DiagBlind (setRateRamp k raw) := by
  intro s
  cases k <;> rfl

theorem setRangeRamp_blind (k : RampSel) (a : RampRange) : DiagBlind (setRangeRamp k a) := by
  intro s
  cases k <;> rfl

theorem setRangeRampRaw_blind (k : RampSel) (raw : Int) : DiagBlind (setRangeRampRaw k raw) := by
  intro s
  cases k <;> rfl

theorem zeroRamp_blind (k : RampSel) : DiagBlind (zeroRamp k) := by
  intro s
  cases k <;> rfl

theorem regWrite_blind (a : RegAddr) (v : Fixed) : DiagBlind (regWrite a v) := by
  intro s
  unfold regWrite
  split
  · exact setRateSine_blind _ _ s
  · exact setRangeSine_blind _ _ s
  · exact setRateRamp_blind _ _ s
  · exact setRangeRampRaw_blind _ _ s
  · rfl
  · rfl
  · rfl

/-- The evaluation of an LFO reads no diagnostic (R405). -/
theorem choEval_eraseDiag (s : State) (n : LfoSel) (f : ChoFlags) : choEval (eraseDiag s) n f = choEval s n f := by
  cases n with
  | sine k => cases k <;> rfl
  | ramp k => cases k <;> rfl

theorem eraseDiagOutcome_next {s u : State} (h : eraseDiag s = eraseDiag u) :
    eraseDiagOutcome (.next s) = eraseDiagOutcome (.next u) := congrArg Host.Outcome.next h

/-- No instruction reads a diagnostic. -/
theorem exec_eraseDiag (i : Instr) (s : State) :
    eraseDiagOutcome (exec i (eraseDiag s)) = eraseDiagOutcome (exec i s) := by
  have captured := capturePacc_blind s
  cases i with
  | rda | rmpa => exact eraseDiagOutcome_next (readAccumulate_blind _ _ s)
  | wra a | wrap a => exact eraseDiagOutcome_next ((finishAcc_blind _ _).congr ((delayWrite_blind _).congr captured))
  | wrax a | wrhx a | wrlx a =>
    exact eraseDiagOutcome_next ((finishAcc_blind _ _).congr ((regWrite_blind a s.acc).congr captured))
  | rdax | mulx | and | clr | xor | not => exact eraseDiagOutcome_next ((finishAcc_blind _ _).congr captured)
  | rdfx | ldax => exact eraseDiagOutcome_next (filterRegister_blind _ _ s)
  | maxx | absa => exact eraseDiagOutcome_next (maxRegister_blind _ _ s)
  | log | exp | sof => exact eraseDiagOutcome_next (scaleOffset_blind _ _ _ s)
  | or => exact eraseDiagOutcome_next (finishAcc_blind _ _ s)
  | skp | nop => rfl
  | wlds k f a =>
    have rate := setRateSine_blind k f.toNat s
    exact eraseDiagOutcome_next (nextIp_blind.congr ((setRangeSine_blind k a.toNat).congr rate))
  | wldr k f a =>
    have rate := setRateRamp_blind k f.toInt s
    exact eraseDiagOutcome_next (nextIp_blind.congr ((setRangeRamp_blind k a).congr rate))
  | jam k => exact eraseDiagOutcome_next (nextIp_blind.congr (zeroRamp_blind k s))
  | choRda n f a =>
    simp only [exec, execChoRda, choEval_eraseDiag]
    cases choEval s n f with
    | error e => rfl
    | ok r => exact eraseDiagOutcome_next ((readAccumulate_blind _ _).congr (countClamps_blind r.clamps s))
  | choSof n f | choRdal n f =>
    simp only [exec, execChoSof, execChoRdal, choEval_eraseDiag]
    cases choEval s n f with
    | error e => rfl
    | ok r =>
      have counted := countClamps_blind r.clamps s
      exact eraseDiagOutcome_next ((finishAcc_blind _ _).congr (capturePacc_blind.congr counted))
  | choUnknown => rfl

/-- The step count and the diagnostics are different fields. -/
theorem eraseDiagOutcome_countStepOutcome (x : Host.Outcome State Fault Refusal) :
    eraseDiagOutcome (countStepOutcome x) = countStepOutcome (eraseDiagOutcome x) := by cases x <;> rfl

theorem executeWord_eraseDiag (w : Word) (s : State) :
    eraseDiagOutcome (executeWord w (eraseDiag s)) = eraseDiagOutcome (executeWord w s) := by
  cases hw : decodeWord w with
  | error e => simp [executeWord, hw, raise, eraseDiag]
  | ok i => simp only [executeWord_eq_countStepOutcome hw, eraseDiagOutcome_countStepOutcome, exec_eraseDiag]

theorem sampleStep_eraseDiag (s : State) :
    eraseDiagOutcome (sampleStep (eraseDiag s)) = eraseDiagOutcome (sampleStep s) := by
  have hfetch : fetch (eraseDiag s) = fetch s := rfl
  cases hw : fetch s with
  | none => rw [sampleStep_end hw, sampleStep_end (hfetch.trans hw)]; rfl
  | some w =>
    rcases Nat.lt_or_ge s.steps maxStepsPerSample with hs | hs
    · rw [sampleStep_word hw hs, sampleStep_word (hfetch.trans hw) hs]
      exact executeWord_eraseDiag w s
    · rw [sampleStep_ceiling hw hs, sampleStep_ceiling (hfetch.trans hw) hs]
      rfl

theorem hostStep_eraseDiag (s : State) :
    eraseDiagOutcome (hostStep (eraseDiag s)) = eraseDiagOutcome (hostStep s) := by
  have hhost : (eraseDiag s).host = s.host := rfl
  cases h : s.host with
  | nil => rw [hostStep_idle h, hostStep_idle (hhost.trans h)]; rfl
  | cons command rest =>
    cases command with
    | frame f => rw [hostStep_frame h, hostStep_frame (hhost.trans h)]; rfl
    | resetDiagnostics => rw [hostStep_resetDiagnostics h, hostStep_resetDiagnostics (hhost.trans h)]; rfl
    | load image => rw [hostStep_load h, hostStep_load (hhost.trans h)]; rfl

theorem step_eraseDiag (s : State) : eraseDiagOutcome (step (eraseDiag s)) = eraseDiagOutcome (step s) := by
  have hphase : (eraseDiag s).phase = s.phase := rfl
  cases h : s.phase with
  | betweenSamples =>
    rw [step_betweenSamples h, step_betweenSamples (hphase.trans h)]
    exact hostStep_eraseDiag s
  | inSample =>
    rw [step_inSample h, step_inSample (hphase.trans h)]
    exact sampleStep_eraseDiag s

/-- Settles O44: each of the two outcomes is that of the common state with its diagnostics cleared. -/
theorem diagnosticsHaveNoEffect : Obligations.DiagnosticsHaveNoEffect := by
  intro s u h
  rw [← step_eraseDiag s, h, step_eraseDiag u]

end Sys2Proof.Machine
end

section
/-! No decoded program meets the step ceiling (R255): IP grows with every instruction, since a skip by no words is a
terminator. -/

namespace Sys2Proof.Machine

/-! Which errors an instruction raises (R405, R413, R441). -/

/-- The errors of an LFO evaluation (R404, R405). -/
inductive ChoError : Fault → Prop
  | flag (flag : ChoFlagName) (selector : LfoSel) : ChoError (.incompatibleFlag flag selector)
  | value (v : Real64) : ChoError (.lfoInvariantViolation v)

/-- Part of an LFO evaluation: an error it ends in is one of those. -/
def RaisesChoErrors {α : Type} (x : Except Fault α) : Prop := ∀ e, x = .error e → ChoError e

section
variable {α β : Type}

theorem raisesChoErrors_ok (a : α) : RaisesChoErrors (.ok a) := nofun

theorem raisesChoErrors_flag (flag : ChoFlagName) (selector : LfoSel) :
    RaisesChoErrors (.error (.incompatibleFlag flag selector) : Except Fault α) := by
  rintro e ⟨⟩
  exact .flag flag selector

theorem RaisesChoErrors.bind {x : Except Fault α} {g : α → Except Fault β} (hx : RaisesChoErrors x)
    (hg : ∀ a, RaisesChoErrors (g a)) : RaisesChoErrors (x >>= g) := by
  intro e he
  cases x with
  | error e' => cases he; exact hx e rfl
  | ok a => exact hg a e he

theorem RaisesChoErrors.ite {c : Prop} [Decidable c] {x y : Except Fault α} (hx : RaisesChoErrors x)
    (hy : RaisesChoErrors y) : RaisesChoErrors (if c then x else y) := by
  split
  · exact hx
  · exact hy

/-- A check that is made under a flag alone, with what follows it in both branches. -/
theorem RaisesChoErrors.bind_ite {c : Prop} [Decidable c] {x : Except Fault α} {a : α} {g : α → Except Fault β}
    (hx : RaisesChoErrors x) (hg : ∀ a, RaisesChoErrors (g a)) :
    RaisesChoErrors (if c then x >>= g else .ok a >>= g) :=
  (hx.bind hg).ite ((raisesChoErrors_ok a).bind hg)

end

theorem checkInvariant_raises (policy : LfoInvariantPolicy) (n : Nat) (y : Real64) :
    RaisesChoErrors (checkInvariant policy n y) := by
  unfold checkInvariant
  split
  · exact raisesChoErrors_ok _
  · cases policy with
    | fault => rintro e ⟨⟩; exact .value y
    | clamp => exact raisesChoErrors_ok _

theorem choEvalSine_raises (s : State) (k : SineSel) (f : ChoFlags) : RaisesChoErrors (choEvalSine s k f) := by
  have check := checkInvariant_raises s.cfg.lfoPolicy
  unfold choEvalSine
  refine (check _ _).bind fun (v, n) => ?_
  refine RaisesChoErrors.ite (raisesChoErrors_flag _ _) ?_
  refine RaisesChoErrors.bind_ite (check _ _) fun (v, n) => ?_
  exact RaisesChoErrors.ite (raisesChoErrors_flag _ _) (raisesChoErrors_ok _)

theorem choEvalRamp_raises (s : State) (k : RampSel) (f : ChoFlags) : RaisesChoErrors (choEvalRamp s k f) := by
  have check := checkInvariant_raises s.cfg.lfoPolicy
  unfold choEvalRamp
  refine RaisesChoErrors.ite (raisesChoErrors_flag _ _) ?_
  refine (check _ _).bind fun (v, n) => ?_
  refine RaisesChoErrors.bind_ite (check _ _) fun (v, n) => ?_
  refine RaisesChoErrors.bind_ite (check _ _) fun (v, n) => ?_
  exact RaisesChoErrors.ite ((check _ _).bind fun _ => raisesChoErrors_ok _) (raisesChoErrors_ok _)

theorem choEval_raises (s : State) (n : LfoSel) (f : ChoFlags) : RaisesChoErrors (choEval s n f) := by
  cases n with
  | sine k => exact choEvalSine_raises s k f
  | ramp k => exact choEvalRamp_raises s k f

/-- An instruction's error is one of an LFO evaluation, or that of the reserved sub-command (R441). -/
theorem exec_fault {i : Instr} {s : State} {e : Fault} (h : exec i s = .fault e) :
    ChoError e ∨ ∃ w, i = .choUnknown w ∧ e = .unknownInstruction w := by
  cases i with
  | choRda n f | choSof n f | choRdal n f =>
    simp only [exec, execChoRda, execChoSof, execChoRdal, raise] at h
    split at h
    next he => cases h; exact .inl (choEval_raises s n f _ he)
    · cases h
  | choUnknown w => cases h; exact .inr ⟨w, rfl, rfl⟩
  | _ => cases h

/-- No instruction raises the error of the sample loop. -/
theorem executeWord_ne_stepCeiling (w : Word) (s : State) (n : Nat) :
    executeWord w s ≠ .fault (.stepCeilingExceeded n) := by
  intro h
  cases hw : decodeWord w with
  | error e => simp [executeWord, hw, raise] at h
  | ok i =>
    rw [executeWord_eq_countStepOutcome hw] at h
    cases he : exec i s with
    | next t => rw [he] at h; cases h
    | refused r => rw [he] at h; cases h
    | fault e =>
      rw [he] at h
      cases h
      rcases exec_fault he with hcho | ⟨_, -, hunknown⟩
      · cases hcho
      · cases hunknown

/-- No command of the host raises it either. -/
theorem hostStep_ne_stepCeiling (s : State) (n : Nat) : hostStep s ≠ .fault (.stepCeilingExceeded n) := by
  intro h
  cases hhost : s.host with
  | nil => rw [hostStep_idle hhost] at h; cases h
  | cons command rest =>
    cases command with
    | frame f => rw [hostStep_frame hhost] at h; cases h
    | resetDiagnostics => rw [hostStep_resetDiagnostics hhost] at h; cases h
    | load image =>
      rw [hostStep_load hhost, loadProgram] at h
      split at h <;> cases h

/-! IP under an instruction of a decoded program (R130, R247, R380). -/

/-- A word that decodes to a SKP and is no terminator skips at least one word (R130). -/
theorem skip_pos_of_not_terminator {w : Word} {f : SkpFlags} {n : BitVec 6} (hw : decodeWord w = .ok (.skp f n))
    (hterm : isTerminator w = false) : 0 < n.toNat := by
  have hop : opcodeOf w = 0x11#5 := (fitsWord_of_decodeWord hw).2.symm
  have hn : fieldN6 w = n := by
    rw [decodeWord_skp hop, aliasSkp_eq] at hw
    split at hw <;> cases hw
    rfl
  have hne : n ≠ 0 := by simpa [isTerminator, hop, hn] using hterm
  exact Nat.pos_of_ne_zero fun h0 => hne (BitVec.eq_of_toNat_eq h0)

theorem exec_ip_lt {w : Word} {i : Instr} {s t : State} (hw : decodeWord w = .ok i) (hterm : isTerminator w = false)
    (h : exec i s = .next t) : s.ip < t.ip := by
  rcases exec_ip h with hnext | ⟨f, n, rfl, hskip⟩
  · omega
  · have := skip_pos_of_not_terminator hw hterm
    rw [hskip, skipTarget]
    split <;> omega

/-! Decoded programs (R131). -/

/-- A fetched word stands below the bound on the program's length, decodes and is no terminator. -/
theorem ProgramLoaded.fetch {s : State} (h : ProgramLoaded s) {w : Word} (hw : fetch s = some w) :
    s.ip < maxProgramLen ∧ isTerminator w = false := by
  obtain ⟨hlength, hwords⟩ := h
  obtain ⟨hip, hget⟩ := List.getElem?_eq_some_iff.mp hw
  exact ⟨hip.trans_le hlength, (hwords w (hget ▸ List.getElem_mem hip)).1⟩

/-- A decoded image is a decoded program, as the state that a load makes holds it (R130, R470). -/
theorem loadedState_programLoaded {image : List Byte} {program : List Word} (h : decodeImage image = .ok program)
    (cfg : Config) (host : List HostCommand) : ProgramLoaded (loadedState cfg program host) := by
  unfold decodeImage at h
  split at h
  · cases h
  next ws _ =>
    obtain ⟨rfl, hlength, htemplated⟩ := (programIsWordsBeforeTerminator ws program).mp h
    refine ⟨hlength, fun w hw => ⟨?_, ?_⟩⟩
    · have hkept : (!isTerminator w) = true := List.mem_takeWhile_imp (p := (!isTerminator ·)) hw
      simpa using hkept
    · obtain ⟨i, hi, -⟩ := decodeWord_of_templated (htemplated w hw)
      exact ⟨i, hi⟩

/-- With no more steps taken than IP says, a decoded program is left before the ceiling. -/
theorem step_ne_stepCeiling {s : State} (hp : ProgramLoaded s) (hs : StepsBelowIp s) (n : Nat) :
    step s ≠ .fault (.stepCeilingExceeded n) := by
  cases hphase : s.phase with
  | betweenSamples => exact step_betweenSamples hphase ▸ hostStep_ne_stepCeiling s n
  | inSample =>
    rw [step_inSample hphase]
    cases hw : fetch s with
    | none => rw [sampleStep_end hw]; nofun
    | some w =>
      have hsteps : s.steps < maxStepsPerSample := Nat.lt_of_le_of_lt hs (hp.fetch hw).1
      exact sampleStep_word hw hsteps ▸ executeWord_ne_stepCeiling w s n

theorem step_programLoaded_stepsBelowIp {s t : State} (hp : ProgramLoaded s) (hs : StepsBelowIp s)
    (h : step s = .next t) : ProgramLoaded t ∧ StepsBelowIp t := by
  rcases step_next s t h with ⟨-, hh⟩ | ⟨-, hl⟩
  · rcases hostStep_next s t hh with ⟨-, rfl⟩ | ⟨f, rest, -, rfl⟩ | ⟨rest, -, rfl⟩ |
      ⟨image, rest, program, -, hi, rfl⟩
    · exact ⟨hp, hs⟩
    · exact ⟨hp, Nat.zero_le _⟩
    · exact ⟨hp, hs⟩
    · exact ⟨loadedState_programLoaded hi s.cfg rest, Nat.zero_le _⟩
  · rcases sampleStep_next s t hl with ⟨-, rfl⟩ | ⟨w, i, u, hf, -, hi, hu, rfl⟩
    · exact ⟨hp, Nat.zero_le _⟩
    · have hframe := exec_frame i s u hu
      have hip := exec_ip_lt hi (hp.fetch hf).2 hu
      refine ⟨?program, ?steps⟩
      case program =>
        show ProgramLoaded u
        rwa [ProgramLoaded, hframe.program]
      case steps =>
        have hsteps : s.steps ≤ s.ip := hs
        show u.steps + 1 ≤ u.ip
        rw [hframe.steps]
        omega

/-- Settles O53: `StepsBelowIp` keeps the steps of a decoded program below the ceiling, and every step keeps it. -/
theorem stepCeilingNeverFires : Obligations.StepCeilingNeverFires := fun _ hp hs =>
  ⟨step_ne_stepCeiling hp hs, fun _ => step_programLoaded_stepsBelowIp hp hs⟩

end Sys2Proof.Machine
end

section
/-! Rounding to binary64 (IEEE 754, assumption 3): a 53-bit number is exact, so rounding does not cross it. -/

namespace Sys2Proof.Machine

/-- A 53-bit number is not changed by rounding. -/
theorem roundNat_exact (den m k : Nat) (hden : 0 < den) (hm : m ≤ 2 ^ 53) :
    roundNat (den * (m * 2 ^ k)) den = m * 2 ^ k := by
  have hquot : den * (m * 2 ^ k) / den = m * 2 ^ k := Nat.mul_div_cancel_left _ hden
  have hdvd : 2 ^ ((m * 2 ^ k).log2 - 52) ∣ m * 2 ^ k := by
    generalize he : (m * 2 ^ k).log2 - 52 = e
    rcases Nat.lt_or_ge k e with hlt | hle
    · have hne : m * 2 ^ k ≠ 0 := by
        intro h0
        simp [h0] at he
        omega
      have hlow : 2 ^ (52 + e) ≤ m * 2 ^ k := (Nat.le_log2 hne).mp (by omega)
      have hhigh : m * 2 ^ k ≤ 2 ^ (53 + k) := Nat.pow_add 2 53 k ▸ Nat.mul_le_mul_right _ hm
      have hpow : 2 ^ (53 + k) ≤ 2 ^ (52 + e) := Nat.pow_le_pow_right (by decide) (by omega)
      rw [(hhigh.trans hpow).antisymm hlow]
      exact Nat.pow_dvd_pow 2 (Nat.le_add_left e 52)
    · exact Dvd.dvd.mul_left (Nat.pow_dvd_pow 2 hle) m
  obtain ⟨c, hc⟩ := hdvd
  rw [roundNat, hquot]
  generalize hd : 2 ^ ((m * 2 ^ k).log2 - 52) = d at hc ⊢
  have hpos : 0 < den * d := Nat.mul_pos hden (hd ▸ Nat.two_pow_pos _)
  have hmod : den * (d * c) % (den * d) = 0 := by rw [← Nat.mul_assoc, Nat.mul_mod_right]
  have hdiv : den * (d * c) / (den * d) = c := by rw [← Nat.mul_assoc, Nat.mul_div_cancel_left _ hpos]
  have hexact : ¬ (den * d < 2 * 0 ∨ (2 * 0 = den * d ∧ c % 2 = 1)) := by omega
  simp only [hc, hmod, hdiv, if_neg hexact, Nat.mul_comm c d]

/-- A signed 53-bit number is not changed by rounding. -/
theorem roundQuot_exact (m : Int) (den k : Nat) (hden : 0 < den) (hm : m.natAbs ≤ 2 ^ 53) :
    (roundQuot (den * (m * 2 ^ k)) den).units = m * 2 ^ k := by
  have hround := roundNat_exact den m.natAbs k hden hm
  have hpow : (0 : Int) < 2 ^ k := by positivity
  have hpos : (0 : Int) < den * 2 ^ k := by positivity
  have habs : (den * (m * 2 ^ k) : Int).natAbs = den * (m.natAbs * 2 ^ k) := by simp [Int.natAbs_mul, Int.natAbs_pow]
  rw [roundQuot, habs, hround]
  push_cast
  split
  next hneg => rw [abs_of_neg (by nlinarith)]; ring
  next hnonneg => rw [abs_of_nonneg (by nlinarith)]

theorem le_roundQuot {m num : Int} {den k : Nat} (hden : 0 < den) (hm : m.natAbs ≤ 2 ^ 53)
    (h : den * (m * 2 ^ k) ≤ num) : m * 2 ^ k ≤ (roundQuot num den).units :=
  roundQuot_exact m den k hden hm ▸ roundQuot_mono _ _ den hden h

theorem roundQuot_le_of_le {m num : Int} {den k : Nat} (hden : 0 < den) (hm : m.natAbs ≤ 2 ^ 53)
    (h : num ≤ den * (m * 2 ^ k)) : (roundQuot num den).units ≤ m * 2 ^ k :=
  roundQuot_exact m den k hden hm ▸ roundQuot_mono _ _ den hden h

end Sys2Proof.Machine
end

section
/-! The intermediate of LOG (R274): the exact log2 in units, its order, its powers of two and three times them, and what
the two roundings and the truncation leave of it. -/

namespace Sys2Proof.Machine

/-! The digits of log2. -/

/-- The digits that follow do not depend on those found so far. -/
theorem logDigits_eq_add (fuel m acc : Nat) : logDigits fuel m acc = acc * 2 ^ fuel + logDigits fuel m 0 := by
  induction fuel generalizing m acc with
  | zero => simp [logDigits]
  | succ fuel ih =>
    simp only [logDigits]
    split
    · rw [ih _ (2 * acc + 1), ih _ (2 * 0 + 1)]; ring
    · rw [ih _ (2 * acc)]; ring

/-- log2 of 1 has no digits. -/
theorem logDigits_realOne (fuel acc : Nat) : logDigits fuel realOne acc = acc * 2 ^ fuel := by
  have hsq : realOne * realOne / 2 ^ realBits = realOne := Nat.mul_div_cancel _ realOne_pos
  have hlt : ¬ 2 * realOne ≤ realOne := by have := realOne_pos; omega
  induction fuel generalizing acc with
  | zero => simp [logDigits]
  | succ fuel ih =>
    simp only [logDigits, hsq, if_neg hlt, ih]
    ring

/-- log2 of a positive integer in units, before it is rounded. -/
def log2Exact (r : Nat) : Nat := 2 ^ 96 * logDigits 96 (realOne * r / 2 ^ Nat.log2 r) (Nat.log2 r)

theorem log2_eq_roundQuot (r : Nat) : Real64.log2 r = roundQuot (log2Exact r) 1 := by
  rw [Real64.log2, log2Exact]
  push_cast
  rfl

theorem log2Exact_mono {r q : Nat} (h : r ≤ q) : log2Exact r ≤ log2Exact q := by
  have hlog : r.log2 ≤ q.log2 := by
    simp only [Nat.log2_eq_log_two]
    exact Nat.log_mono_right h
  refine Nat.mul_le_mul_left _ ?_
  rcases hlog.lt_or_eq with hlt | heq
  · calc logDigits 96 (realOne * r / 2 ^ r.log2) r.log2
      _ ≤ (r.log2 + 1) * 2 ^ 96 := (logDigits_bounds 96 _ _).2.le
      _ ≤ q.log2 * 2 ^ 96 := Nat.mul_le_mul_right _ hlt
      _ ≤ logDigits 96 (realOne * q / 2 ^ q.log2) q.log2 := (logDigits_bounds 96 _ _).1
  · rw [heq]
    exact logDigits_mono 96 _ _ _ (Nat.div_le_div_right (Nat.mul_le_mul_left _ h))

theorem log2Exact_two_pow (k : Nat) : log2Exact (2 ^ k) = k * 2 ^ 192 := by
  have hm : realOne * 2 ^ k / 2 ^ k = realOne := Nat.mul_div_cancel _ (Nat.two_pow_pos k)
  rw [log2Exact, Nat.log2_two_pow, hm, logDigits_realOne]
  ring

theorem log2_three_mul_two_pow (k : Nat) : (3 * 2 ^ k).log2 = k + 1 := by
  rw [Nat.log2_eq_iff (by positivity)]
  have hpos := Nat.two_pow_pos k
  simp only [Nat.pow_succ]
  omega

theorem log2Exact_three_mul_two_pow (k : Nat) :
    log2Exact (3 * 2 ^ k) = (k + 1) * 2 ^ 192 + 2 ^ 96 * logDigits 96 (3 * 2 ^ 191) 0 := by
  have hm : realOne * (3 * 2 ^ k) / 2 ^ (k + 1) = 3 * 2 ^ 191 := by
    rw [show realOne * (3 * 2 ^ k) = 3 * 2 ^ 191 * 2 ^ (k + 1) by rw [realOne, realBits]; ring]
    exact Nat.mul_div_cancel _ (Nat.two_pow_pos _)
  rw [log2Exact, log2_three_mul_two_pow, hm, logDigits_eq_add]
  ring

/-- log2 of 3/2 lies between 306688.5 and 306689 units of 2^-19. -/
theorem logDigits_three_halves :
    613377 * 2 ^ 76 ≤ logDigits 96 (3 * 2 ^ 191) 0 ∧ logDigits 96 (3 * 2 ^ 191) 0 ≤ 306689 * 2 ^ 77 := by
  decide +kernel

/-! LOG's intermediate (R274). -/

/-- log2 less 23, as the binary64 subtraction rounds it. -/
def logReal (r : Nat) : Real64 := (Real64.log2 r).sub (Real64.ofInt 23)

theorem log2Fn_zero : log2Fn 0 = -(2 ^ 23) := if_pos rfl

theorem log2Fn_of_pos {r : Nat} (h : 0 < r) :
    log2Fn r = max (Int.tdiv (2 ^ 19 * (logReal r).units) realOne) (-(2 ^ 23)) := if_neg h.ne'

theorem logReal_mono {r q : Nat} (h : r ≤ q) : (logReal r).units ≤ (logReal q).units := by
  have hlog : (Real64.log2 r).units ≤ (Real64.log2 q).units :=
    roundQuot_mono _ _ 1 one_pos (Int.ofNat_le.mpr (log2Exact_mono h))
  exact roundQuot_mono _ _ 1 one_pos (by omega)

/-- A lower bound on log2 in multiples of 2^-20 is one of 53 bits, so both roundings keep it. -/
theorem le_logReal {r : Nat} {m : Int} (hm : m.natAbs ≤ 2 ^ 50) (h : m * 2 ^ 172 ≤ log2Exact r) :
    (m - 23 * 2 ^ 20) * 2 ^ 172 ≤ (logReal r).units := by
  have hlog : m * 2 ^ 172 ≤ (Real64.log2 r).units := by
    rw [log2_eq_roundQuot]
    exact le_roundQuot one_pos (by omega) (by omega)
  refine le_roundQuot one_pos (by omega) ?_
  simp only [Real64.ofInt, realOne, realBits]
  omega

/-- Both roundings keep such an upper bound too. -/
theorem logReal_le {r : Nat} {m : Int} (hm : m.natAbs ≤ 2 ^ 50) (h : (log2Exact r : Int) ≤ m * 2 ^ 172) :
    (logReal r).units ≤ (m - 23 * 2 ^ 20) * 2 ^ 172 := by
  have hlog : (Real64.log2 r).units ≤ m * 2 ^ 172 := by
    rw [log2_eq_roundQuot]
    exact roundQuot_le_of_le one_pos (by omega) (by omega)
  refine roundQuot_le_of_le one_pos (by omega) ?_
  simp only [Real64.ofInt, realOne, realBits]
  omega

theorem log2Fn_two_pow {k : Nat} (hk : k ≤ 32) :
    log2Fn (2 ^ k) = max (((k : Int) - 23) * 524288) (-8388608) := by
  have hexact : (log2Exact (2 ^ k) : Int) = (k : Int) * 2 ^ 20 * 2 ^ 172 := by
    rw [log2Exact_two_pow]
    push_cast
    ring
  have hunits : (logReal (2 ^ k)).units = ((k : Int) * 2 ^ 20 - 23 * 2 ^ 20) * 2 ^ 172 :=
    (logReal_le (by omega) hexact.le).antisymm (le_logReal (by omega) hexact.ge)
  have hproduct : 2 ^ 19 * (logReal (2 ^ k)).units = ((k : Int) - 23) * 524288 * realOne := by
    rw [hunits, realOne, realBits]
    push_cast
    ring
  rw [log2Fn_of_pos (Nat.two_pow_pos k), hproduct,
    Int.mul_tdiv_cancel _ (Int.natCast_ne_zero.mpr realOne_pos.ne')]
  rfl

/-- The product with 2^19 is negative, so the truncation toward zero takes it up to the next integer. -/
theorem log2Fn_three_mul_two_pow {k : Nat} (hlo : 6 ≤ k) (hhi : k ≤ 21) :
    log2Fn (3 * 2 ^ k) = ((k : Int) - 22) * 524288 + 306689 := by
  obtain ⟨hdigitsLo, hdigitsHi⟩ := logDigits_three_halves
  have hexact := log2Exact_three_mul_two_pow k
  have hbelow := le_logReal (r := 3 * 2 ^ k) (m := ((k : Int) + 1) * 2 ^ 20 + 613377) (by omega) (by omega)
  have habove := logReal_le (r := 3 * 2 ^ k) (m := ((k : Int) + 1) * 2 ^ 20 + 613378) (by omega) (by omega)
  have hneg : (logReal (3 * 2 ^ k)).units ≤ 0 := by omega
  have htrunc : Int.tdiv (2 ^ 19 * (logReal (3 * 2 ^ k)).units) realOne =
      -(2 ^ 19 * -(logReal (3 * 2 ^ k)).units / realOne) := by
    rw [← Int.tdiv_eq_ediv_of_nonneg (by omega), Int.mul_neg, Int.neg_tdiv, neg_neg]
  rw [log2Fn_of_pos (by positivity), htrunc, realOne, realBits]
  omega

theorem neg_le_log2Fn (r : Nat) : -8388608 ≤ log2Fn r := by
  rcases r.eq_zero_or_pos with rfl | hr
  · exact le_of_eq log2Fn_zero.symm
  · rw [log2Fn_of_pos hr]
    exact le_max_right _ _

theorem log2Fn_mono {r q : Nat} (h : r ≤ q) : log2Fn r ≤ log2Fn q := by
  rcases r.eq_zero_or_pos with rfl | hr
  · exact log2Fn_zero ▸ neg_le_log2Fn q
  · rw [log2Fn_of_pos hr, log2Fn_of_pos (hr.trans_le h)]
    refine max_le_max_right _ (Int.tdiv_le_tdiv (Int.natCast_pos.mpr realOne_pos) ?_)
    exact Int.mul_le_mul_of_nonneg_left (logReal_mono h) (by decide)

/-- Below 2^-16 log2 is at or below the minimum that LOG can represent. -/
theorem log2Fn_of_lt {r : Nat} (h : r < 128) : log2Fn r = -8388608 :=
  le_antisymm ((log2Fn_mono h.le).trans (log2Fn_two_pow (k := 7) (by decide)).le) (neg_le_log2Fn r)

end Sys2Proof.Machine
end

section
/-! The intermediate of EXP (R276): the exact power of two, its order, its whole and its half points, and what the
rounding and the dropped fraction leave of it. -/

namespace Sys2Proof.Machine

/-! The power of two that EXP takes. -/

/-- 2^(f / 2^19) with 250 fraction bits. -/
def expFraction (f : Nat) : Nat := expSeries 250 (lnTwo * f / 2 ^ 19) 60 0 (2 ^ 250) (2 ^ 250)

theorem expFraction_mono {f g : Nat} (h : f ≤ g) : expFraction f ≤ expFraction g :=
  expSeries_mono 250 _ _ 60 0 _ _ _ _ (Nat.div_le_div_right (Nat.mul_le_mul_left _ h)) le_rfl le_rfl

theorem le_expFraction (f : Nat) : 2 ^ 250 ≤ expFraction f := expSeries_ge 250 _ 60 0 _ _

theorem expFraction_lt {f : Nat} (h : f ≤ 2 ^ 19) : expFraction f < 2 * 2 ^ 250 := by
  have hone : lnTwo * 2 ^ 19 / 2 ^ 19 = lnTwo := Nat.mul_div_cancel _ (by decide)
  have hlt : expFraction (2 ^ 19) < 2 ^ 251 := by
    rw [expFraction, hone]
    exact expSeries_lnTwo_lt
  exact (expFraction_mono h).trans_lt hlt

/-- Without an argument the series stops at the sum so far. -/
theorem expSeries_zero (p fuel k term acc : Nat) : expSeries p 0 fuel k term acc = acc := by
  induction fuel generalizing k term acc with
  | zero => rfl
  | succ fuel ih => simp [expSeries, ih]

theorem expFraction_zero : expFraction 0 = 2 ^ 250 := expSeries_zero 250 60 0 _ _

/-- 2^(x / 2^19) with 250 fraction bits, before it is rounded. -/
def exp2Exact (x : Nat) : Nat := 2 ^ (x / 2 ^ 19) * expFraction (x % 2 ^ 19)

theorem exp2Exact_eq {x w f : Nat} (hx : x = w * 2 ^ 19 + f) (hf : f < 2 ^ 19) :
    exp2Exact x = 2 ^ w * expFraction f := by
  have hdiv : x / 2 ^ 19 = w := by omega
  have hmod : x % 2 ^ 19 = f := by omega
  rw [exp2Exact, hdiv, hmod]

theorem exp2Exact_mono {x y : Nat} (h : x ≤ y) : exp2Exact x ≤ exp2Exact y := by
  rcases (Nat.div_le_div_right (c := 2 ^ 19) h).lt_or_eq with hlt | heq
  · calc exp2Exact x
      _ ≤ 2 ^ (x / 2 ^ 19) * (2 * 2 ^ 250) :=
        Nat.mul_le_mul_left _ (expFraction_lt (Nat.mod_lt x (by decide)).le).le
      _ = 2 ^ (x / 2 ^ 19 + 1) * 2 ^ 250 := by ring
      _ ≤ 2 ^ (y / 2 ^ 19) * expFraction (y % 2 ^ 19) :=
        Nat.mul_le_mul (Nat.pow_le_pow_right (by decide) hlt) (le_expFraction _)
  · have hmod : x % 2 ^ 19 ≤ y % 2 ^ 19 := by omega
    rw [exp2Exact, exp2Exact, heq]
    exact Nat.mul_le_mul_left _ (expFraction_mono hmod)

/-- The power, rounded once, with its fraction dropped. -/
def exp2Floor (x : Nat) : Int := (roundQuot (exp2Exact x) (2 ^ 58)).floor

theorem exp2Floor_mono {x y : Nat} (h : x ≤ y) : exp2Floor x ≤ exp2Floor y :=
  Int.ediv_le_ediv (Int.natCast_pos.mpr realOne_pos)
    (roundQuot_mono _ _ _ (by decide) (Int.ofNat_le.mpr (exp2Exact_mono h)))

theorem exp2Floor_nonneg (x : Nat) : 0 ≤ exp2Floor x :=
  Int.ediv_nonneg (roundQuot_nonneg _ _ (Int.natCast_nonneg _)) (Int.natCast_nonneg _)

theorem le_exp2Floor {x v : Nat} (hv : v ≤ 2 ^ 53) (h : v * 2 ^ 250 ≤ exp2Exact x) : (v : Int) ≤ exp2Floor x := by
  have hround : (v : Int) * 2 ^ 192 ≤ (roundQuot (exp2Exact x) (2 ^ 58)).units :=
    le_roundQuot (by decide) (by omega) (by push_cast; omega)
  exact (Int.le_ediv_iff_mul_le (Int.natCast_pos.mpr realOne_pos)).mpr hround

/-- A power that stays 2^-29 below the next integer does not round up to it. -/
theorem exp2Floor_le {x v : Nat} (hv : v < 2 ^ 24) (h : exp2Exact x ≤ (v * 2 ^ 29 + (2 ^ 29 - 1)) * 2 ^ 221) :
    exp2Floor x ≤ v := by
  have hround : (roundQuot (exp2Exact x) (2 ^ 58)).units ≤ ((v : Int) * 2 ^ 29 + (2 ^ 29 - 1)) * 2 ^ 163 :=
    roundQuot_le_of_le (by decide) (by omega) (by push_cast; omega)
  refine Int.lt_add_one_iff.mp (Int.ediv_lt_of_lt_mul (Int.natCast_pos.mpr realOne_pos) ?_)
  rw [realOne, realBits]
  omega

theorem exp2Floor_two_pow {w : Nat} (hw : w < 24) : exp2Floor (w * 2 ^ 19) = 2 ^ w := by
  have hexact : exp2Exact (w * 2 ^ 19) = 2 ^ w * 2 ^ 250 := by
    rw [exp2Exact_eq (Nat.add_zero _).symm (by decide), expFraction_zero]
  have hpow : 2 ^ w < 2 ^ 24 := Nat.pow_lt_pow_right (by decide) hw
  have hle : exp2Floor (w * 2 ^ 19) ≤ (2 ^ w : Nat) := exp2Floor_le hpow (by omega)
  have hge : ((2 ^ w : Nat) : Int) ≤ exp2Floor (w * 2 ^ 19) := le_exp2Floor (by omega) hexact.ge
  rw [hle.antisymm hge]
  push_cast
  rfl

/-! The half points: the series reads the square root of 2. -/

/-- The square of the series at one half lies just below 2. -/
theorem expFraction_half_sq :
    (2 ^ 45 - 1) * (2 ^ 250 * 2 ^ 250) ≤ 2 ^ 44 * (expFraction (2 ^ 18) * expFraction (2 ^ 18)) ∧
    expFraction (2 ^ 18) * expFraction (2 ^ 18) ≤ 2 * (2 ^ 29 * 2 ^ 221 * (2 ^ 29 * 2 ^ 221)) := by
  decide +kernel

/-- An odd power of two is not a square. -/
theorem mul_self_ne_two_pow_odd (v w : Nat) : v * v ≠ 2 ^ (2 * w + 1) := by
  intro h
  obtain ⟨j, -, rfl⟩ := (Nat.dvd_prime_pow Nat.prime_two).mp (Dvd.intro v h)
  rw [← Nat.pow_add] at h
  have hexp := Nat.pow_right_injective (le_refl 2) h
  omega

/-- With `y / b` just below the root of 2, an integer below `p` times the root of 2 is not above `p * (y / b)`. -/
theorem root_mul_le {v p y b : Nat} (hp : p ≤ 2 ^ 22) (hv : v * v < 2 * (p * p))
    (hy : (2 ^ 45 - 1) * (b * b) ≤ 2 ^ 44 * (y * y)) : v * b ≤ p * y := by
  have hpp : p * p ≤ 2 ^ 22 * 2 ^ 22 := Nat.mul_le_mul hp hp
  have hvp : 2 ^ 44 * (v * v) ≤ (2 ^ 45 - 1) * (p * p) := by omega
  have hsq : 2 ^ 44 * (v * b * (v * b)) ≤ 2 ^ 44 * (p * y * (p * y)) := by calc
    _ = 2 ^ 44 * (v * v) * (b * b) := by ring
    _ ≤ (2 ^ 45 - 1) * (p * p) * (b * b) := Nat.mul_le_mul_right _ hvp
    _ = p * p * ((2 ^ 45 - 1) * (b * b)) := by ring
    _ ≤ p * p * (2 ^ 44 * (y * y)) := Nat.mul_le_mul_left _ hy
    _ = 2 ^ 44 * (p * y * (p * y)) := by ring
  exact Nat.mul_self_le_mul_self_iff.mp (Nat.le_of_mul_le_mul_left hsq (by decide))

/-- With `y / (2 ^ 29 * c)` at most the root of 2, `p` times it stays 2^-29 below an integer that is above `p` times the
root. -/
theorem mul_le_root {v p y c : Nat} (hv : v < 2 ^ 24) (hp : 2 * (p * p) < (v + 1) * (v + 1))
    (hy : y * y ≤ 2 * (2 ^ 29 * c * (2 ^ 29 * c))) : p * y ≤ (v * 2 ^ 29 + (2 ^ 29 - 1)) * c := by
  have hroot : 2 * (p * p) * 2 ^ 58 ≤ (v * 2 ^ 29 + (2 ^ 29 - 1)) * (v * 2 ^ 29 + (2 ^ 29 - 1)) := by
    have hm : (v * 2 ^ 29 + (2 ^ 29 - 1)) * (v * 2 ^ 29 + (2 ^ 29 - 1)) + 2 ^ 30 * (v + 1) =
        (v + 1) * (v + 1) * 2 ^ 58 + 1 := by
      norm_num
      ring
    omega
  refine Nat.mul_self_le_mul_self_iff.mp ?_
  calc p * y * (p * y)
    _ = p * p * (y * y) := by ring
    _ ≤ p * p * (2 * (2 ^ 29 * c * (2 ^ 29 * c))) := Nat.mul_le_mul_left _ hy
    _ = 2 * (p * p) * 2 ^ 58 * (c * c) := by ring
    _ ≤ (v * 2 ^ 29 + (2 ^ 29 - 1)) * (v * 2 ^ 29 + (2 ^ 29 - 1)) * (c * c) := Nat.mul_le_mul_right _ hroot
    _ = _ := by ring

/-- Half way between two multiples of 1/16 the power is the root of an odd power of two, truncated. -/
theorem exp2Floor_half {w : Nat} (hw : w ≤ 22) : exp2Floor (w * 2 ^ 19 + 2 ^ 18) = Nat.sqrt (2 ^ (2 * w + 1)) := by
  obtain ⟨hlow, hhigh⟩ := expFraction_half_sq
  have hexact : exp2Exact (w * 2 ^ 19 + 2 ^ 18) = 2 ^ w * expFraction (2 ^ 18) := exp2Exact_eq rfl (by decide)
  have hodd : 2 ^ (2 * w + 1) = 2 * (2 ^ w * 2 ^ w) := by ring
  have hpow : 2 ^ w ≤ 2 ^ 22 := Nat.pow_le_pow_right (by decide) hw
  have hbelow : Nat.sqrt (2 ^ (2 * w + 1)) * Nat.sqrt (2 ^ (2 * w + 1)) < 2 * (2 ^ w * 2 ^ w) := by
    rw [← hodd]
    exact (Nat.sqrt_le _).lt_of_ne (mul_self_ne_two_pow_odd _ w)
  have habove : 2 * (2 ^ w * 2 ^ w) < (Nat.sqrt (2 ^ (2 * w + 1)) + 1) * (Nat.sqrt (2 ^ (2 * w + 1)) + 1) := by
    rw [← hodd]
    exact Nat.lt_succ_sqrt _
  have hsmall : Nat.sqrt (2 ^ (2 * w + 1)) < 2 ^ 24 := by
    have hpp := Nat.mul_le_mul hpow hpow
    exact Nat.mul_self_lt_mul_self_iff.mp (by omega)
  refine le_antisymm (exp2Floor_le hsmall ?_) (le_exp2Floor (by omega) ?_)
  · rw [hexact]
    exact mul_le_root hsmall habove hhigh
  · rw [hexact]
    exact root_mul_le hpow hbelow hlow

/-! EXP's intermediate (R276): 12058624 is 23 * 2^19, so `x` counts from the argument whose power is 1. -/

theorem exp2Fn_of_nonneg {a : Int} (h : 0 ≤ a) : exp2Fn a = 8388607 := if_pos h

theorem exp2Fn_of_lt {a : Int} (h : a < -12058624) : exp2Fn a = 0 := by
  have hneg : ¬ 0 ≤ a := by omega
  have hbelow : 23 * 2 ^ 19 + a < 0 := by omega
  rw [exp2Fn, if_neg hneg, if_pos hbelow]

theorem exp2Fn_eq_exp2Floor {a : Int} {x : Nat} (ha : a = x - 12058624) (hx : x < 12058624) :
    exp2Fn a = exp2Floor x := by
  have hneg : ¬ 0 ≤ a := by omega
  have hsum : 23 * 2 ^ 19 + a = x := by omega
  have hrange : ¬ (x : Int) < 0 := by omega
  have hwhole : ((x : Int) / 2 ^ 19).toNat = x / 2 ^ 19 := by omega
  have hfrac : ((x : Int) % 2 ^ 19).toNat = x % 2 ^ 19 := by omega
  rw [exp2Fn, if_neg hneg]
  simp only [hsum, if_neg hrange, hwhole, hfrac]
  rw [exp2Floor, exp2Exact]
  push_cast
  rfl

/-- The argument of EXP is not negative, or its power is below 1, or it is one that `exp2Floor` takes. -/
theorem exp2Fn_cases (a : Int) :
    0 ≤ a ∨ a < -12058624 ∨ ∃ x : Nat, a = x - 12058624 ∧ x < 12058624 := by
  by_cases h : 0 ≤ a ∨ a < -12058624
  · omega
  · exact .inr (.inr ⟨(a + 12058624).toNat, by omega, by omega⟩)

/-- The largest negative argument gives a power below 2^23 - 1, so none rounds up to 2^23. -/
theorem exp2Exact_largest_negative : exp2Exact 12058623 ≤ (8388606 * 2 ^ 29 + (2 ^ 29 - 1)) * 2 ^ 221 := by
  decide +kernel

theorem exp2Fn_bounds (a : Int) : 0 ≤ exp2Fn a ∧ exp2Fn a ≤ 8388607 := by
  rcases exp2Fn_cases a with h | h | ⟨x, ha, hx⟩
  · simp [exp2Fn_of_nonneg h]
  · simp [exp2Fn_of_lt h]
  · rw [exp2Fn_eq_exp2Floor ha hx]
    have hlargest := exp2Floor_le (by decide) exp2Exact_largest_negative
    exact ⟨exp2Floor_nonneg x, ((exp2Floor_mono (Nat.le_of_lt_succ hx)).trans hlargest).trans (by decide)⟩

theorem exp2Fn_mono {a b : Int} (h : a ≤ b) : exp2Fn a ≤ exp2Fn b := by
  rcases exp2Fn_cases b with hb | hb | ⟨y, hb, hy⟩
  · exact exp2Fn_of_nonneg hb ▸ (exp2Fn_bounds a).2
  · rw [exp2Fn_of_lt hb, exp2Fn_of_lt (h.trans_lt hb)]
  · rcases exp2Fn_cases a with ha | ha | ⟨x, ha, hx⟩
    · omega
    · exact exp2Fn_of_lt ha ▸ (exp2Fn_bounds b).1
    · rw [exp2Fn_eq_exp2Floor ha hx, exp2Fn_eq_exp2Floor hb hy]
      exact exp2Floor_mono (by omega)

theorem exp2Fn_neg_mul {k : Nat} (hlo : 1 ≤ k) (hhi : k ≤ 23) : exp2Fn (-(k : Int) * 524288) = 2 ^ (23 - k) := by
  rw [exp2Fn_eq_exp2Floor (x := (23 - k) * 2 ^ 19) (by omega) (by omega)]
  exact exp2Floor_two_pow (by omega)

theorem exp2Fn_neg_mul_sub_half {k : Nat} (hk : k ≤ 22) :
    exp2Fn (-(k : Int) * 524288 - 262144) = Nat.sqrt (2 ^ (45 - 2 * k)) := by
  rw [exp2Fn_eq_exp2Floor (x := (22 - k) * 2 ^ 19 + 2 ^ 18) (by omega) (by omega), exp2Floor_half (by omega),
    show 2 * (22 - k) + 1 = 45 - 2 * k by omega]

/-- EXP at -1.0 and above. -/
theorem le_exp2Fn {a : Int} (h : -8388608 ≤ a) : 128 ≤ exp2Fn a := by calc
  128 = exp2Fn (-(16 : Nat) * 524288) := (exp2Fn_neg_mul (k := 16) (by decide) (by decide)).symm
  _ ≤ exp2Fn a := exp2Fn_mono h

end Sys2Proof.Machine
end

section
/-! The scale/offset family (R270 to R276): the shared fold `F * C + D` on signed values, and the three instructions. -/

namespace Sys2Proof

open Sys2Proof.Machine Sys2Proof.Claims

/-! A capture with its results, in the statements' integer arithmetic (R244, R251). -/

theorem one_eq_toNat (b : Bool) : one b = b.toNat := by cases b <;> rfl

theorem overs_eq_countP (xs : List Int) : overs xs = xs.countP outside24 := by
  induction xs with
  | nil => rfl
  | cons x xs ih =>
    rw [overs, ih, List.countP_cons, one, Nat.add_comm]

/-- The flagged results are counted by the exact values that lie outside the range. -/
theorem capture_finish_eq_captured (s : State) {results : List Fixed} {xs : List Int} (v : Fixed)
    (h : results.map (·.ovf) = xs.map outside24) :
    s.capturePacc.finishAcc results v = captured s xs ⟨v.raw, 8, 23, v.ovf⟩ := by
  have hcount : results.countP (·.ovf) = overs xs := by calc
    results.countP (·.ovf) = (results.map (·.ovf)).countP id := by rw [List.countP_map]; rfl
    _ = (xs.map outside24).countP id := by rw [h]
    _ = overs xs := by rw [List.countP_map, overs_eq_countP]; rfl
  rw [capture_finish_eq, captured, one_eq_toNat, hcount]

/-- A finished result, read back, is what the primitive leaves for its exact result (R162). -/
theorem finish_val (clamp : Bool) (x : Int) (y : Fixed) : (finish clamp x y).val = fin clamp x := by
  cases clamp with
  | true => exact finishRaw_clamped_toInt x
  | false => exact finishRaw_unclamped_toInt x

theorem fpMult_val (clamp : Bool) (a b : Fixed) : (fpMult clamp a b).val = fin clamp (a.val * b.val / 8388608) :=
  finish_val clamp _ a

/-- The family's contract on signed values (R270). -/
theorem scaleOffset_eq_scaleFold (x cv dv : Fixed) (s : State) :
    scaleOffset x cv dv s = scaleFold s x.val cv.val dv.val := by
  have hproduct (cl : Bool) : (fpMult cl x cv).ovf = outside24 (x.val * cv.val / 8388608) :=
    outOfRange_eq_outside24 _
  have hsum (cl : Bool) : fpAdd cl (fpMult cl x cv) dv =
      finish cl (fin cl (x.val * cv.val / 8388608) + dv.val) (fpMult cl x cv) := by
    rw [fpAdd, fpMult_val]
  rw [scaleOffset, hsum, capture_finish_eq_captured
    (xs := [x.val * cv.val / 8388608, fin s.cfg.clampEnabled (x.val * cv.val / 8388608) + dv.val]),
    finish_eq]
  · rfl
  · simp only [List.map, hproduct, finish_ovf, outOfRange_eq_outside24]

/-! SOF (R272). -/

theorem exec_sof (c : BitVec 16) (d : BitVec 11) (s : State) :
    exec (.sof c d) s = .next (scaleOffset s.acc (coefS1_14 c) (offsetS_10 d) s) := rfl

/-- Settles O13: the family's fold with the S1.14 coefficient and the S.10 offset. -/
theorem sofResult : Obligations.SofResult := by
  intro c d s
  rw [exec_sof, scaleOffset_eq_scaleFold, coefS1_14_val, offsetS_10_val]
  rfl

/-! The intermediates of LOG and EXP (R274, R276). -/

/-- Settles O15: both functions round a value that keeps the order, and the exact points are read off that value. -/
theorem logExpIntermediates : Obligations.LogExpIntermediates := by
  refine ⟨fun _ => log2Fn_of_lt, ?twoPow, fun _ => log2Fn_three_mul_two_pow, neg_le_log2Fn, ?nonpos,
    fun _ _ => log2Fn_mono, fun _ => exp2Fn_of_nonneg, fun _ => exp2Fn_neg_mul, ?half, fun a _ => exp2Fn_bounds a,
    fun _ h _ => le_exp2Fn h, fun _ _ => exp2Fn_mono⟩
  case twoPow =>
    intro k hlo hhi
    rw [log2Fn_two_pow (by omega)]
    omega
  case nonpos =>
    intro r h
    exact (log2Fn_mono h).trans (log2Fn_two_pow (k := 23) (by decide)).le
  case half =>
    intro k hk
    rw [exp2Fn_neg_mul_sub_half hk]
    exact ⟨Int.natCast_nonneg _, by exact_mod_cast Nat.sqrt_le' _, by exact_mod_cast Nat.lt_succ_sqrt' _⟩

/-! LOG and EXP (R274, R276). -/

theorem exec_log (c : BitVec 16) (d : BitVec 11) (s : State) :
    exec (.log c d) s = .next (scaleOffset (logValue s.acc) (coefS4_11 c) (offsetS4_6 d) s) := rfl

theorem exec_exp (c : BitVec 16) (d : BitVec 11) (s : State) :
    exec (.exp c d) s = .next (scaleOffset (expValue s.acc) (coefS1_14 c) (offsetS_10 d) s) := rfl

/-- LOG's intermediate fits the 32-bit pattern that carries it: |ACC| is at most 2^31. -/
theorem logValue_val (acc : Fixed) : (logValue acc).val = log2Fn acc.raw.toInt.natAbs := by
  have hlo := BitVec.le_two_mul_toInt (x := acc.raw)
  have hhi := BitVec.two_mul_toInt_lt (x := acc.raw)
  have hmin := neg_le_log2Fn acc.raw.toInt.natAbs
  have hmax : log2Fn acc.raw.toInt.natAbs ≤ log2Fn (2 ^ 31) := log2Fn_mono (by omega)
  rw [log2Fn_two_pow (by decide)] at hmax
  exact toInt_ofInt_of_bounds (log2Fn acc.raw.toInt.natAbs) (by omega) (by omega)

theorem expValue_val (acc : Fixed) : (expValue acc).val = exp2Fn acc.raw.toInt := by
  obtain ⟨hmin, hmax⟩ := exp2Fn_bounds acc.raw.toInt
  exact toInt_ofInt_of_bounds (exp2Fn acc.raw.toInt) (by omega) (by omega)

/-- Settles O14: the family's fold with the intermediates and each instruction's operand formats. -/
theorem logExpResults : Obligations.LogExpResults := by
  intro c d s
  rw [exec_log, exec_exp, scaleOffset_eq_scaleFold, scaleOffset_eq_scaleFold, logValue_val, expValue_val,
    coefS4_11_val, offsetS4_6_val, coefS1_14_val, offsetS_10_val]
  exact ⟨rfl, rfl⟩

end Sys2Proof
end

section
/-! The bitwise family (R290 to R294): the result and the frame of a capturing instruction, the two fixed-mask forms, and
OR, which does not capture. -/

namespace Sys2Proof

open Sys2Proof.Machine Sys2Proof.Claims

/-! Finishing with a bitwise result, which counts no primitive (R171, R251). -/

theorem capture_finish_bitResult (s : State) (r : Word) :
    s.capturePacc.finishAcc [] (bitResult s.acc r) = captured s [] ⟨r, 8, 23, outside24 r.toInt⟩ := by
  rw [capture_finish_eq_captured s (xs := []) _ rfl, bitResult, outOfRange_eq_outside24]

/-- Without a capture, a finish that counts no primitive writes ACC and IP alone (R247, R292). -/
theorem finish_bitResult (s : State) (a : Fixed) (r : Word) :
    s.finishAcc [] (bitResult a r) = { s with acc := ⟨r, 8, 23, outside24 r.toInt⟩, ip := s.ip + 1 } := by
  rw [bitResult, outOfRange_eq_outside24]
  rfl

/-! AND and XOR capture PACC (R290, R293), OR does not (R292). -/

theorem exec_and (m : BitVec 24) (s : State) :
    exec (.and m) s = .next (captured s [] ⟨s.acc.raw &&& m.signExtend 32, 8, 23,
      outside24 (s.acc.raw &&& m.signExtend 32).toInt⟩) :=
  congrArg _ (capture_finish_bitResult s _)

theorem exec_xor (m : BitVec 24) (s : State) :
    exec (.xor m) s = .next (captured s [] ⟨s.acc.raw ^^^ m.signExtend 32, 8, 23,
      outside24 (s.acc.raw ^^^ m.signExtend 32).toInt⟩) :=
  congrArg _ (capture_finish_bitResult s _)

theorem exec_or (m : BitVec 24) (s : State) :
    exec (.or m) s = .next { s with
      acc := ⟨s.acc.raw ||| m.signExtend 32, 8, 23, outside24 (s.acc.raw ||| m.signExtend 32).toInt⟩
      ip := s.ip + 1 } :=
  congrArg _ (finish_bitResult s s.acc _)

/-! CLR and NOT are AND and XOR with one fixed mask (R291, R294). -/

theorem exec_clr_eq_exec_and (s : State) : exec .clr s = exec (.and 0) s := rfl

theorem exec_not_eq_exec_xor (s : State) : exec .not s = exec (.xor (BitVec.allOnes 24)) s := rfl

theorem and_signExtend_zero (x : Word) : x &&& (0 : BitVec 24).signExtend 32 = 0 := BitVec.and_zero

/-- The all-ones mask extends to the all-ones word, so NOT complements all 32 bits (R294). -/
theorem xor_signExtend_allOnes (x : Word) : x ^^^ (BitVec.allOnes 24).signExtend 32 = ~~~x := BitVec.xor_allOnes

/-- The complement as a signed number (R294): no wrap-around, since `-v - 1` maps the signed range onto itself. -/
theorem toInt_complement (x : Word) : (~~~x).toInt = -x.toInt - 1 := by
  have hx := x.isLt
  simp only [BitVec.toInt_eq_toNat_cond, BitVec.toNat_not]
  split <;> split <;> omega

/-- The complement as a word: the one's complement is the negation less one (R294). -/
theorem complement_eq_ofInt (x : Word) : ~~~x = BitVec.ofInt 32 (-x.toInt - 1) := by
  rw [← toInt_complement, BitVec.ofInt_toInt]

/-- Settles O16: CLR and NOT are read off AND and XOR at their masks, where the result is zero and the complement. -/
theorem capturingBitwiseResults : Obligations.CapturingBitwiseResults := by
  intro m s
  refine ⟨exec_and m s, ?clr, exec_xor m s, ?not⟩
  case clr =>
    have hzero : outside24 (0 : Word).toInt = false := by decide
    rw [exec_clr_eq_exec_and, exec_and, and_signExtend_zero, hzero]
  case not =>
    rw [exec_not_eq_exec_xor, exec_xor, xor_signExtend_allOnes, toInt_complement, complement_eq_ofInt]

/-- Settles O17: OR finishes without a capture and without a primitive to count. -/
theorem orKeepsPacc : Obligations.OrKeepsPacc := exec_or

end Sys2Proof
end

section
/-! The delay-memory family (R310 to R313): a delay access between the capture and the finish, in the statements' integer
arithmetic, and the four instructions. -/

namespace Sys2Proof

open Sys2Proof.Machine Sys2Proof.Claims

/-! The base address and the width of a delay word (R74, R77). -/

theorem delayIndex_eq_tapeIndex (s : State) (a : Int) : delayIndex s a = tapeIndex s a := rfl

theorem baseOob_eq_baseBad (a : Int) : baseOob a = baseBad a := by
  rw [Bool.eq_iff_iff, baseOob_iff, baseBad, decide_eq_true_iff]

/-- A value fits a delay word exactly when it lies in the 24-bit range (R77). -/
theorem toQ_fits_eq (x : Fixed) : (toQ x 0 23).2 = !outside24 x.raw.toInt := by
  have hvalue : atFraction x 23 = x.raw.toInt := by simp [atFraction, asr, Fixed.val]
  rw [toQ, hvalue, Bool.eq_iff_iff]
  simp only [fitsSigned, outside24, Bool.and_eq_true, Bool.not_eq_true', decide_eq_true_iff, decide_eq_false_iff_not]
  omega

/-- RMPA's base is the integer part of ADDR_PTR (R76, R311). -/
theorem addrPtrBase_eq (s : State) : addrPtrBase s = (s.reg 0x18#6).toInt / 256 := rfl

/-! A product and a sum with it, by their exact results (R161, R162). -/

theorem fpMult_ovf (clamp : Bool) (a b : Fixed) : (fpMult clamp a b).ovf = outside24 (a.val * b.val / 8388608) :=
  outOfRange_eq_outside24 _

theorem fpAdd_ovf (clamp : Bool) (a b : Fixed) : (fpAdd clamp a b).ovf = outside24 (a.val + b.val) :=
  outOfRange_eq_outside24 _

/-- A finished result, written to ACC (R248). -/
theorem finish_as_acc (clamp : Bool) (x : Int) (y : Fixed) :
    (⟨(finish clamp x y).raw, 8, 23, (finish clamp x y).ovf⟩ : Fixed) = accOf clamp x := by
  rw [finish_eq, accOf]

theorem fpMult_as_acc (clamp : Bool) (a b : Fixed) :
    (⟨(fpMult clamp a b).raw, 8, 23, (fpMult clamp a b).ovf⟩ : Fixed) = accOf clamp (a.val * b.val / 8388608) :=
  finish_as_acc clamp _ a

theorem fpAdd_as_acc (clamp : Bool) (a b : Fixed) :
    (⟨(fpAdd clamp a b).raw, 8, 23, (fpAdd clamp a b).ovf⟩ : Fixed) = accOf clamp (a.val + b.val) :=
  finish_as_acc clamp _ a

/-! Reads (R310, R311). -/

/-- A delay read and the finish of an instruction touch different fields, apart from two counters (R78, R251). -/
theorem delayRead_finishAcc (s : State) (a : Int) (results : List Fixed) (v : Fixed) :
    (s.delayRead a).finishAcc results v = (s.finishAcc results v).delayRead a := rfl

theorem delayRead_eq (s : State) (a : Int) :
    s.delayRead a = { s with
      lr := ⟨(s.mem.read (tapeIndex s a)).signExtend 32, 0, 23, false⟩
      diag := { s.diag with oobReads := s.diag.oobReads + one (baseBad a) } } := by
  rw [State.delayRead, ofDelayWord_eq, delayIndex_eq_tapeIndex, State.countOob, baseOob_eq_baseBad, one_eq_toNat]

/-- The family's contract for a read, which CHO RDA shares (R310, R410). -/
theorem readAccumulate_eq_readFold (a : Int) (cv : Fixed) (s : State) :
    readAccumulate a cv s = readFold s a cv.val := by
  have hlr : (s.capturePacc.delayRead a).lr.val = (s.mem.read (tapeIndex s a)).toInt := by
    rw [delayRead_lr, ofDelayWord_val, delayIndex_eq_tapeIndex]
    rfl
  rw [readAccumulate, delayRead_finishAcc, capture_finish_eq_captured, fpAdd_as_acc, delayRead_eq]
  · rw [fpMult_val, hlr]
    rfl
  · simp only [List.map, fpMult_ovf, fpAdd_ovf, fpMult_val, hlr]
    rfl

theorem exec_rda (a : DelayAddr) (c : BitVec 11) (s : State) :
    exec (.rda a c) s = .next (readAccumulate a.toNat (coefS1_9 c) s) := rfl

theorem exec_rmpa (c : BitVec 11) (s : State) :
    exec (.rmpa c) s = .next (readAccumulate (addrPtrBase s) (coefS1_9 c) s) := rfl

/-- Settles O18: both are the family's read, from the operand's base and from ADDR_PTR's. -/
theorem delayReadResults : Obligations.DelayReadResults := by
  intro a c s
  rw [exec_rda, exec_rmpa, readAccumulate_eq_readFold, readAccumulate_eq_readFold, coefS1_9_val, addrPtrBase_eq]
  exact ⟨rfl, rfl⟩

/-! Writes (R312, R313). -/

/-- A delay write changes the word at the effective index alone, to the low 24 bits of ACC (R72, R77). -/
theorem delayWrite_wroteWord (s : State) (a : Int) (h : s.mem.wf = true) : WroteWord s a (s.delayWrite a).mem := by
  rw [WroteWord, ← delayIndex_eq_tapeIndex, ← toQ_delayWord]
  exact ⟨delayWrite_read_same s a h, delayWrite_read_ne s a⟩

/-- A delay write between the capture and the finish adds the new memory and two counters to the captured state (R77). -/
theorem capture_delayWrite_finish (s : State) (a : Int) {results : List Fixed} {xs : List Int} (v : Fixed)
    (h : results.map (·.ovf) = xs.map outside24) :
    (s.capturePacc.delayWrite a).finishAcc results v =
      writeFold s a (s.delayWrite a).mem xs ⟨v.raw, 8, 23, v.ovf⟩ := by
  have htruncated : (!(toQ s.acc 0 23).2).toNat = one (outside24 s.acc.raw.toInt) := by
    rw [toQ_fits_eq, Bool.not_not, one_eq_toNat]
  have hbase : (baseOob a).toNat = one (baseBad a) := by rw [baseOob_eq_baseBad, one_eq_toNat]
  rw [writeFold, ← capture_finish_eq_captured s v h, ← htruncated, ← hbase]
  rfl

theorem exec_wra (a : DelayAddr) (c : BitVec 11) (s : State) :
    exec (.wra a c) s = .next (
      let p := fpMult s.cfg.clampEnabled s.acc (coefS1_9 c)
      (s.capturePacc.delayWrite a.toNat).finishAcc [p] p) := rfl

theorem exec_wrap (a : DelayAddr) (c : BitVec 11) (s : State) :
    exec (.wrap a c) s = .next (
      let p := fpMult s.cfg.clampEnabled s.acc (coefS1_9 c)
      let r := fpAdd s.cfg.clampEnabled p s.lr
      (s.capturePacc.delayWrite a.toNat).finishAcc [p, r] r) := rfl

/-- Settles O19: the memory is that of one delay write, and each instruction's results are its exact ones, finished. -/
theorem delayWriteResults : Obligations.DelayWriteResults := by
  intro a c s hmem p r
  refine ⟨(s.delayWrite a.toNat).mem, delayWrite_wroteWord s a.toNat hmem, ?wra, ?wrap⟩
  case wra =>
    rw [exec_wra, capture_delayWrite_finish (xs := [p]), fpMult_as_acc, coefS1_9_val]
    · rfl
    · simp only [List.map, fpMult_ovf, coefS1_9_val]
      rfl
  case wrap =>
    rw [exec_wrap, capture_delayWrite_finish (xs := [p, r]), fpAdd_as_acc, fpMult_val, coefS1_9_val]
    · rfl
    · simp only [List.map, fpMult_ovf, fpAdd_ovf, fpMult_val, coefS1_9_val]
      rfl

end Sys2Proof
end

section
/-! The register family (R330 to R339): the reading instructions as captures of their exact results, and the writing
ones with a register write between the capture and the finish. -/

namespace Sys2Proof

open Sys2Proof.Machine Sys2Proof.Claims

/-! The operands and the remaining primitives, by their exact results (R35, R161, R162). -/

theorem regFixed_val (s : State) (a : RegAddr) : (s.regFixed a).val = (s.reg a).toInt := rfl

/-- The coefficient of LDAX and ABSA (R332, R338). -/
theorem coefS1_14_zero_val : (coefS1_14 0).val = 0 := coefS1_14_val 0

theorem fpSub_val (clamp : Bool) (a b : Fixed) : (fpSub clamp a b).val = fin clamp (a.val - b.val) :=
  finish_val clamp _ a

theorem fpAbs_val (clamp : Bool) (a : Fixed) : (fpAbs clamp a).val = fin clamp a.val.natAbs :=
  finish_val clamp _ a

theorem fpSub_ovf (clamp : Bool) (a b : Fixed) : (fpSub clamp a b).ovf = outside24 (a.val - b.val) :=
  outOfRange_eq_outside24 _

theorem fpAbs_ovf (clamp : Bool) (a : Fixed) : (fpAbs clamp a).ovf = outside24 a.val.natAbs :=
  outOfRange_eq_outside24 a.val.natAbs

theorem fpAbs_as_acc (clamp : Bool) (a : Fixed) :
    (⟨(fpAbs clamp a).raw, 8, 23, (fpAbs clamp a).ovf⟩ : Fixed) = accOf clamp a.val.natAbs :=
  finish_as_acc clamp _ a

/-! RDAX and MULX (R330, R339). -/

theorem exec_rdax (a : RegAddr) (c : BitVec 16) (s : State) :
    exec (.rdax a c) s = .next (
      let p := fpMult s.cfg.clampEnabled (s.regFixed a) (coefS1_14 c)
      let r := fpAdd s.cfg.clampEnabled s.acc p
      s.capturePacc.finishAcc [p, r] r) := rfl

theorem exec_mulx (a : RegAddr) (s : State) :
    exec (.mulx a) s = .next (
      let p := fpMult s.cfg.clampEnabled s.acc (s.regFixed a)
      s.capturePacc.finishAcc [p] p) := rfl

/-- Settles O21: each result is the finished exact one, and RDAX adds the product as it was finished. -/
theorem rdaxMulxResults : Obligations.RdaxMulxResults := by
  intro a c s cl p r q
  constructor
  case left =>
    rw [exec_rdax, capture_finish_eq_captured (xs := [p, r]), fpAdd_as_acc, fpMult_val, regFixed_val, coefS1_14_val]
    · rfl
    · simp only [List.map, fpMult_ovf, fpAdd_ovf, fpMult_val, regFixed_val, coefS1_14_val]
      rfl
  case right =>
    rw [exec_mulx, capture_finish_eq_captured (xs := [q]), fpMult_as_acc, regFixed_val]
    · rfl
    · simp only [List.map, fpMult_ovf, regFixed_val]
      rfl

/-! RDFX and LDAX (R331, R332). -/

/-- The filter step on signed values (R331). -/
theorem filterRegister_eq_filterFold (x cv : Fixed) (s : State) :
    filterRegister x cv s = filterFold s x.val cv.val := by
  rw [filterRegister, capture_finish_eq_captured, fpAdd_as_acc]
  · rw [fpMult_val, fpSub_val]
    rfl
  · simp only [List.map, fpSub_ovf, fpMult_ovf, fpAdd_ovf, fpMult_val, fpSub_val]
    rfl

theorem exec_rdfx (a : RegAddr) (c : BitVec 16) (s : State) :
    exec (.rdfx a c) s = .next (filterRegister (s.regFixed a) (coefS1_14 c) s) := rfl

theorem exec_ldax (s : State) : exec .ldax s = .next (filterRegister (s.regFixed 0) (coefS1_14 0) s) := rfl

/-- Settles O22: both are the filter step, from the operands and from slot 0 with a zero coefficient. -/
theorem rdfxLdaxResults : Obligations.RdfxLdaxResults := by
  intro a c s
  rw [exec_rdfx, exec_ldax, filterRegister_eq_filterFold, filterRegister_eq_filterFold, coefS1_14_val,
    coefS1_14_zero_val]
  exact ⟨rfl, rfl⟩

/-! MAXX and ABSA (R337, R338). -/

/-- The larger of two finished values, written to ACC (R337). -/
theorem maxRegister_eq_maxFold (x cv : Fixed) (s : State) : maxRegister x cv s = maxFold s x.val cv.val := by
  rw [maxRegister, capture_finish_eq_captured
    (xs := [s.acc.val.natAbs, x.val * cv.val / 8388608,
      (fin s.cfg.clampEnabled (x.val * cv.val / 8388608)).natAbs]), fpAbs_val, fpAbs_val, fpMult_val, maxFold]
  · refine congrArg (captured s _) ?_
    split
    next hlt => rw [fpAbs_as_acc, fpMult_val]; exact (if_pos hlt).symm
    next hlt => rw [fpAbs_as_acc]; exact (if_neg hlt).symm
  · simp only [List.map, fpAbs_ovf, fpMult_ovf, fpMult_val]

theorem exec_maxx (a : RegAddr) (c : BitVec 16) (s : State) :
    exec (.maxx a c) s = .next (maxRegister (s.regFixed a) (coefS1_14 c) s) := rfl

theorem exec_absa (s : State) : exec .absa s = .next (maxRegister (s.regFixed 0) (coefS1_14 0) s) := rfl

/-- Settles O23: both take the larger absolute value, from the operands and from slot 0 with a zero coefficient. -/
theorem maxxAbsaResults : Obligations.MaxxAbsaResults := by
  intro a c s
  rw [exec_maxx, exec_absa, maxRegister_eq_maxFold, maxRegister_eq_maxFold, coefS1_14_val, coefS1_14_zero_val]
  exact ⟨rfl, rfl⟩

/-! WRAX, WRHX and WRLX (R334 to R336). -/

/-- A register write and a capture commute: the write counts in other diagnostics than the capture (R244, R333). -/
theorem regWrite_capturePacc (a : RegAddr) (v : Fixed) (s : State) :
    regWrite a v s.capturePacc = (regWrite a v s).capturePacc := by
  unfold regWrite
  cases slotRole a with
  | sineRate k | sineRange k => cases k <;> rfl
  | rampRate k | rampRange k => cases k <;> rfl
  | dacl | dacr | plain => rfl

/-- A register write between the capture and the finish of an instruction (R334 to R336). -/
theorem capture_regWrite_finish (a : RegAddr) (s : State) {results : List Fixed} {xs : List Int} (v : Fixed)
    (h : results.map (·.ovf) = xs.map outside24) :
    (regWrite a s.acc s.capturePacc).finishAcc results v = wroteRegister a s xs ⟨v.raw, 8, 23, v.ovf⟩ := by
  rw [regWrite_capturePacc, capture_finish_eq_captured _ v h, captured, wroteRegister, regWrite_acc, regWrite_ip]

theorem exec_wrax (a : RegAddr) (c : BitVec 16) (s : State) :
    exec (.wrax a c) s = .next (
      let p := fpMult s.cfg.clampEnabled s.acc (coefS1_14 c)
      (regWrite a s.acc s.capturePacc).finishAcc [p] p) := rfl

theorem exec_wrhx (a : RegAddr) (c : BitVec 16) (s : State) :
    exec (.wrhx a c) s = .next (
      let p := fpMult s.cfg.clampEnabled s.acc (coefS1_14 c)
      let r := fpAdd s.cfg.clampEnabled p s.pacc
      (regWrite a s.acc s.capturePacc).finishAcc [p, r] r) := rfl

theorem exec_wrlx (a : RegAddr) (c : BitVec 16) (s : State) :
    exec (.wrlx a c) s = .next (
      let d := fpSub s.cfg.clampEnabled s.pacc s.acc
      let p := fpMult s.cfg.clampEnabled d (coefS1_14 c)
      let r := fpAdd s.cfg.clampEnabled p s.pacc
      (regWrite a s.acc s.capturePacc).finishAcc [d, p, r] r) := rfl

/-- Settles O24: one register write each, and the results are the finished exact ones, with PACC as it was before. -/
theorem registerWritingResults : Obligations.RegisterWritingResults := by
  intro a c s cl x y k p h d l r
  refine ⟨?wrax, ?wrhx, ?wrlx⟩
  case wrax =>
    rw [exec_wrax, capture_regWrite_finish (xs := [p]), fpMult_as_acc, coefS1_14_val]
    · rfl
    · simp only [List.map, fpMult_ovf, coefS1_14_val]
      rfl
  case wrhx =>
    rw [exec_wrhx, capture_regWrite_finish (xs := [p, h]), fpAdd_as_acc, fpMult_val, coefS1_14_val]
    · rfl
    · simp only [List.map, fpMult_ovf, fpAdd_ovf, fpMult_val, coefS1_14_val]
      rfl
  case wrlx =>
    rw [exec_wrlx, capture_regWrite_finish (xs := [d, l, r]), fpAdd_as_acc, fpMult_val, fpSub_val, coefS1_14_val]
    · rfl
    · simp only [List.map, fpSub_ovf, fpMult_ovf, fpAdd_ovf, fpMult_val, fpSub_val, coefS1_14_val]
      rfl

end Sys2Proof
end

section
/-! The register write by slot (R333): what it leaves in each LFO slot's oscillator (R203, R204, R208, R209), and the
stored pattern in every other slot. -/

namespace Sys2Proof.Machine

open Sys2Proof.Claims (one)

/-! The slots without an oscillator (R36, R251). -/

/-- Outside the LFO slots only DACL and DACR have a role (R36). -/
theorem slotRole_of_le {a : RegAddr} (h : 8 ≤ a.toNat) :
    slotRole a = if a = 0x16#6 then .dacl else if a = 0x17#6 then .dacr else .plain := by
  revert a
  decide

/-- Outside the LFO slots a register write stores the raw pattern and counts for the two output slots (R251, R333). -/
theorem regWrite_of_le {a : RegAddr} (h : 8 ≤ a.toNat) (v : Fixed) (s : State) :
    regWrite a v s = { s.setReg a v.raw with
      diag := { s.diag with
        daclOverflows := s.diag.daclOverflows + one (v.ovf && a == 0x16#6)
        dacrOverflows := s.diag.dacrOverflows + one (v.ovf && a == 0x17#6) } } := by
  rw [regWrite, slotRole_of_le h]
  by_cases hl : a = 0x16#6
  · subst hl
    simp [State.countDac, State.setReg, one_eq_toNat]
  · by_cases hr : a = 0x17#6
    · subst hr
      simp [State.countDac, State.setReg, one_eq_toNat]
    · simp [State.setReg, one, hl, hr]

/-- Settles O25: the write is a store in the slot and a count. -/
theorem plainRegisterWrite : Obligations.PlainRegisterWrite := by
  intro a v s h
  refine ⟨_, regWrite_of_le h v s, ?_, fun b => regWrite_reg_ne a b v s⟩
  rw [regWrite_of_le h]
  exact reg_setReg_same s a v.raw

/-! The sine slots (R203, R204). -/

theorem outside_eq_decide (lo hi v : Int) : outside lo hi v = decide (v < lo ∨ hi < v) := by
  rw [Bool.eq_iff_iff, outside_iff, decide_eq_true_iff]

theorem regWrite_sineRateSlot (k : SineSel) (v : Fixed) (s : State) :
    let f := v.raw.toInt / 16384
    let kf := min (max f 0) 511
    regWrite (sineRateSlot k) v s =
      ((s.flagSine k (decide (f < 0 ∨ 511 < f))).setSine k { s.sine k with rate := kf.toNat }).setReg
        (sineRateSlot k) (BitVec.ofInt 32 kf) := by
  intro f kf
  have hset : regWrite (sineRateSlot k) v s = setRateSine k f s := by cases k <;> rfl
  rw [hset, setRateSine, outside_eq_decide]
  rfl

/-- The stored values after an amplitude that is not negative is set (R202, R212). -/
theorem refresh_of_range (o : SineOsc) {ka : Int} (h : 0 ≤ ka) :
    ({ o with range := ka.toNat } : SineOsc).refresh = { o with
      range := ka.toNat
      storedSin := o.angle.sin.mul (Real64.ofRatio ka 32767)
      storedCos := o.angle.cos.mul (Real64.ofRatio ka 32767) } := by
  simp only [SineOsc.refresh, SineOsc.liveSin, SineOsc.liveCos, sinAmpNorm, Int.toNat_of_nonneg h]

theorem regWrite_sineRangeSlot (k : SineSel) (v : Fixed) (s : State) :
    let g := v.raw.toInt / 256
    let ka := min (max g 0) 32767
    regWrite (sineRangeSlot k) v s =
      ((s.flagSine k (decide (g < 0 ∨ 32767 < g))).setSine k { s.sine k with
        range := ka.toNat
        storedSin := (s.sine k).angle.sin.mul (Real64.ofRatio ka 32767)
        storedCos := (s.sine k).angle.cos.mul (Real64.ofRatio ka 32767) }).setReg
        (sineRangeSlot k) (BitVec.ofInt 32 ka) := by
  intro g ka
  have hset : regWrite (sineRangeSlot k) v s = setRangeSine k g s := by cases k <;> rfl
  have hka : 0 ≤ clampInt 0 sineRangeMax g := (clampInt_bounds 0 sineRangeMax g (by decide)).1
  rw [hset, setRangeSine, outside_eq_decide, refresh_of_range _ hka]
  rfl

/-- Settles O26, slot by slot: both oscillators have the same rate write and the same amplitude write. -/
theorem sineRegisterWrite : Obligations.SineRegisterWrite := by
  intro v s f g kf ka
  refine ⟨⟨_, regWrite_sineRateSlot .sin0 v s⟩, ⟨_, regWrite_sineRateSlot .sin1 v s⟩,
    ⟨_, regWrite_sineRangeSlot .sin0 v s⟩, ⟨_, regWrite_sineRangeSlot .sin1 v s⟩, ?rate, ?range,
    fun a b _ => regWrite_reg_ne a b v s⟩
  case rate =>
    have hrate (k : SineSel) : (regWrite (sineRateSlot k) v s).reg (sineRateSlot k) = BitVec.ofInt 32 kf := by
      rw [regWrite_sineRateSlot, reg_setReg_same]
    rintro a (rfl | rfl)
    · exact hrate .sin0
    · exact hrate .sin1
  case range =>
    have hrange (k : SineSel) : (regWrite (sineRangeSlot k) v s).reg (sineRangeSlot k) = BitVec.ofInt 32 ka := by
      rw [regWrite_sineRangeSlot, reg_setReg_same]
    rintro a (rfl | rfl)
    · exact hrange .sin0
    · exact hrange .sin1

/-! The ramp slots (R208, R209). -/

theorem regWrite_rampRateSlot (k : RampSel) (v : Fixed) (s : State) :
    let f := v.raw.toInt / 256
    let kr := min (max f (-16384)) 32767
    regWrite (rampRateSlot k) v s =
      ((s.flagRamp k (decide (f < -16384 ∨ 32767 < f))).setRamp k { s.ramp k with rate := kr }).setReg
        (rampRateSlot k) (BitVec.ofInt 32 kr) := by
  intro f kr
  have hset : regWrite (rampRateSlot k) v s = setRateRamp k f s := by cases k <;> rfl
  rw [hset, setRateRamp, outside_eq_decide]
  rfl

theorem regWrite_rampRangeSlot (k : RampSel) (v : Fixed) (s : State) :
    let g := v.raw.toInt / 2048
    let step := rampStepBelow g
    regWrite (rampRangeSlot k) v s =
      ((s.flagRamp k (decide (g ≠ step.toNat))).setRamp k { s.ramp k with range := step }).setReg
        (rampRangeSlot k) (BitVec.ofNat 32 step.toNat) := by
  intro g step
  have hset : regWrite (rampRangeSlot k) v s = setRangeRampRaw k g s := by cases k <;> rfl
  have hbad : (g != step.toNat) = decide (g ≠ step.toNat) := by rw [Bool.eq_iff_iff, bne_iff_ne, decide_eq_true_iff]
  rw [hset, setRangeRampRaw, setRangeRamp, ramp_flagRamp, hbad]

/-- Below the smallest step a ramp amplitude is 512 (R209). -/
theorem rampStepBelow_of_lt {g : Int} (h : g < 512) : rampStepBelow g = .r512 := by
  rw [rampStepBelow, if_neg (by omega), if_neg (by omega), if_neg (by omega)]

theorem rampStepBelow_toNat (g : Int) :
    (rampStepBelow g).toNat =
      if 4096 ≤ g then 4096 else if 2048 ≤ g then 2048 else if 1024 ≤ g then 1024 else 512 := by
  unfold rampStepBelow
  split_ifs <;> rfl

/-- From the smallest step up the ramp amplitude is the largest step that is not above the value (R209). -/
theorem rampStepBelow_largest {g : Int} (h : 512 ≤ g) :
    ((rampStepBelow g).toNat : Int) ≤ g ∧
    ∀ other : RampRange, (other.toNat : Int) ≤ g → other.toNat ≤ (rampStepBelow g).toNat := by
  rw [rampStepBelow_toNat]
  refine ⟨by split_ifs <;> omega, fun other hother => ?_⟩
  cases other with
  | r4096 | r2048 | r1024 | r512 => rw [RampRange.toNat] at *; split_ifs <;> omega

/-- Settles O27, slot by slot: both oscillators have the same rate write and the same amplitude write. -/
theorem rampRegisterWrite : Obligations.RampRegisterWrite := by
  intro v s f g kr
  refine ⟨⟨_, regWrite_rampRateSlot .rmp0 v s⟩, ⟨_, regWrite_rampRateSlot .rmp1 v s⟩,
    ⟨rampStepBelow g, rampStepBelow_of_lt, rampStepBelow_largest, ⟨_, regWrite_rampRangeSlot .rmp0 v s⟩,
      ⟨_, regWrite_rampRangeSlot .rmp1 v s⟩, ?range⟩, ?rate, fun a b _ _ => regWrite_reg_ne a b v s⟩
  case range =>
    have hrange (k : RampSel) :
        (regWrite (rampRangeSlot k) v s).reg (rampRangeSlot k) = BitVec.ofNat 32 (rampStepBelow g).toNat := by
      rw [regWrite_rampRangeSlot, reg_setReg_same]
    rintro a (rfl | rfl)
    · exact hrange .rmp0
    · exact hrange .rmp1
  case rate =>
    have hrate (k : RampSel) : (regWrite (rampRateSlot k) v s).reg (rampRateSlot k) = BitVec.ofInt 32 kr := by
      rw [regWrite_rampRateSlot, reg_setReg_same]
    rintro a (rfl | rfl)
    · exact hrate .rmp0
    · exact hrate .rmp1

end Sys2Proof.Machine
end

section
/-! The LFO loads (R360, R361): a rate and an amplitude set together in one oscillator and its two slots. -/

namespace Sys2Proof.Machine

theorem outside_eq_false {lo hi v : Int} (hlo : lo ≤ v) (hhi : v ≤ hi) : outside lo hi v = false := by
  rw [outside_eq_decide, decide_eq_false_iff_not]
  omega

@[simp] theorem flagSine_false (s : State) (k : SineSel) : s.flagSine k false = s := by
  cases k <;> simp [State.flagSine]

/-! WLDS (R360): both fields are in range, so nothing is clamped or flagged. -/

/-- Setting a sine rate that is in range (R203). -/
theorem setRateSine_of_le (k : SineSel) {n : Nat} (h : n ≤ sineRateMax) (s : State) :
    setRateSine k n s =
      (s.setSine k { s.sine k with rate := n }).setReg (sineRateSlot k) (BitVec.ofNat 32 n) := by
  have hin : outside 0 sineRateMax n = false := outside_eq_false (Int.natCast_nonneg n) (Int.ofNat_le.mpr h)
  rw [setRateSine, hin, clampInt_of_inside _ _ _ hin, flagSine_false, Int.toNat_natCast, BitVec.ofInt_natCast]

/-- Setting a sine amplitude that is in range (R204). -/
theorem setRangeSine_of_le (k : SineSel) {n : Nat} (h : n ≤ sineRangeMax) (s : State) :
    setRangeSine k n s =
      (s.setSine k ({ s.sine k with range := n } : SineOsc).refresh).setReg (sineRangeSlot k) (BitVec.ofNat 32 n) := by
  have hin : outside 0 sineRangeMax n = false := outside_eq_false (Int.natCast_nonneg n) (Int.ofNat_le.mpr h)
  rw [setRangeSine, hin, clampInt_of_inside _ _ _ hin, flagSine_false, Int.toNat_natCast, BitVec.ofInt_natCast]

theorem exec_wlds (k : SineSel) (f : BitVec 9) (a : BitVec 15) (s : State) :
    exec (.wlds k f a) s = .next
      (((s.setReg (sineRateSlot k) (f.setWidth 32)).setReg (sineRangeSlot k) (a.setWidth 32)).setSine k
        ({ s.sine k with rate := f.toNat, range := a.toNat } : SineOsc).refresh).nextIp := by
  have hf : f.toNat ≤ sineRateMax := Nat.le_of_lt_succ f.isLt
  have ha : a.toNat ≤ sineRangeMax := Nat.le_of_lt_succ a.isLt
  change Host.Outcome.next (setRangeSine k a.toNat (setRateSine k f.toNat s)).nextIp = _
  rw [setRateSine_of_le k hf, setRangeSine_of_le k ha, BitVec.ofNat_toNat, BitVec.ofNat_toNat]
  cases k <;> rfl

/-- Settles O28: both oscillators are loaded in the same way. -/
theorem wldsResult : Obligations.WldsResult := by
  intro f a s
  simp only [exec_wlds, State.sine, State.setSine, State.setReg, State.nextIp]
  exact ⟨rfl, rfl⟩

/-! WLDR (R361): the rate field reaches below the smallest rate, never above the largest. -/

/-- Setting a ramp rate that is not above the largest (R208). -/
theorem setRateRamp_of_le (k : RampSel) {r : Int} (h : r ≤ rampRateMax) (s : State) :
    setRateRamp k r s =
      ((s.flagRamp k (decide (r < rampRateMin))).setRamp k { s.ramp k with rate := max r rampRateMin }).setReg
        (rampRateSlot k) (BitVec.ofInt 32 (max r rampRateMin)) := by
  have hclamp : clampInt rampRateMin rampRateMax r = max r rampRateMin := min_eq_left (max_le h (by decide))
  have hflag : outside rampRateMin rampRateMax r = decide (r < rampRateMin) := by
    rw [outside_eq_decide, decide_eq_decide, or_iff_left h.not_gt]
  rw [setRateRamp, hclamp, hflag]

theorem exec_wldr (k : RampSel) (f : BitVec 16) (a : RampRange) (s : State) :
    exec (.wldr k f a) s = .next
      ((((s.flagRamp k (decide (f.toInt < -16384))).setReg (rampRateSlot k)
        (BitVec.ofInt 32 (max f.toInt (-16384)))).setReg (rampRangeSlot k) (BitVec.ofNat 32 a.toNat)).setRamp k
        { s.ramp k with rate := max f.toInt (-16384), range := a }).nextIp := by
  have hf : f.toInt ≤ rampRateMax := Int.le_of_lt_add_one BitVec.toInt_lt
  change Host.Outcome.next (setRangeRamp k a (setRateRamp k f.toInt s)).nextIp = _
  rw [setRateRamp_of_le k hf, setRangeRamp]
  cases k <;> rfl

/-- Settles O29: both ramps are loaded in the same way. -/
theorem wldrResult : Obligations.WldrResult := by
  intro f a s
  simp only [exec_wldr, State.ramp, State.setRamp, State.setReg, State.flagRamp, State.nextIp]
  exact ⟨rfl, rfl⟩

end Sys2Proof.Machine
end

section
/-! The skip family (R380 to R382): the five conditions as statements about ACC, PACC and RUN. -/

namespace Sys2Proof.Machine

/-- The three-valued sign is that of the raw integer (R173). -/
theorem sgn_eq_sign (x : Fixed) : sgn x = x.raw.toInt.sign := by
  rw [sgn]
  rcases lt_trichotomy x.raw.toInt 0 with hneg | hzero | hpos
  · rw [if_pos hneg, Int.sign_eq_neg_one_of_neg hneg]
  · rw [hzero]
    rfl
  · rw [if_neg hpos.not_gt, if_neg hpos.ne', Int.sign_eq_one_of_pos hpos]

theorem condRun_iff (s : State) : condRun s = true ↔ s.run = false := by simp [condRun]

theorem condZrc_iff (s : State) : condZrc s = true ↔ s.acc.raw.toInt.sign ≠ s.pacc.raw.toInt.sign := by
  rw [condZrc, bne_iff_ne, sgn_eq_sign, sgn_eq_sign]

theorem condZro_iff (s : State) : condZro s = true ↔ s.acc.raw.toInt = 0 := beq_iff_eq

theorem condNeg_iff (s : State) : condNeg s = true ↔ s.acc.raw.toInt < 0 := decide_eq_true_iff

theorem condGez_iff (s : State) : condGez s = true ↔ 0 ≤ s.acc.raw.toInt := by
  rw [← not_lt, ← condNeg_iff, condGez, condNeg, Bool.not_eq_true, Bool.not_eq_true']

/-- A skip is taken when one of the conditions its flags select holds (R380, R381). -/
theorem skipTaken_iff (f : SkpFlags) (s : State) :
    skipTaken f s = true ↔
      (f.run = true ∧ s.run = false) ∨ (f.zrc = true ∧ s.acc.raw.toInt.sign ≠ s.pacc.raw.toInt.sign) ∨
      (f.zro = true ∧ s.acc.raw.toInt = 0) ∨ (f.gez = true ∧ 0 ≤ s.acc.raw.toInt) ∨
      (f.neg = true ∧ s.acc.raw.toInt < 0) := by
  simp only [skipTaken, Bool.or_eq_true, Bool.and_eq_true, condRun_iff, condZrc_iff, condZro_iff, condGez_iff,
    condNeg_iff, or_assoc]

theorem exec_skp (f : SkpFlags) (n : BitVec 6) (s : State) :
    exec (.skp f n) s = .next { s with ip := skipTarget f n s } := rfl

/-- Settles O33: the target is chosen by the selected conditions, and IP is the one field either instruction writes. -/
theorem skipResults : Obligations.SkipResults := by
  intro f n s
  refine ⟨?skp, rfl⟩
  rw [exec_skp, skipTarget]
  simp only [skipTaken_iff]

end Sys2Proof.Machine
end

section
/-! Which instructions raise an error (R405, R413, R441). -/

namespace Sys2Proof.Machine

/-- Settles O40: the arm of CHO_UNKNOWN reads no state. -/
theorem unknownSubcommandFails : Obligations.UnknownSubcommandFails := fun _ _ => rfl

/-- An instruction that raises an error is one of the chorus family. -/
theorem exec_fault_chorus {i : Instr} {s : State} {e : Fault} (h : exec i s = .fault e) :
    (∃ n f a, i = .choRda n f a) ∨ (∃ n f d, i = .choSof n f d) ∨ (∃ n f, i = .choRdal n f) ∨
      ∃ w, i = .choUnknown w := by
  cases i with
  | choRda n f a => exact .inl ⟨n, f, a, rfl⟩
  | choSof n f d => exact .inr (.inl ⟨n, f, d, rfl⟩)
  | choRdal n f => exact .inr (.inr (.inl ⟨n, f, rfl⟩))
  | choUnknown w => exact .inr (.inr (.inr ⟨w, rfl⟩))
  | _ => cases h

/-- A chorus instruction completes or raises its evaluation's error; every other answers a next state. -/
theorem exec_ne_refused (i : Instr) (s : State) (r : Refusal) : exec i s ≠ .refused r := by
  intro h
  cases i with
  | choRda n f | choSof n f | choRdal n f =>
    simp only [exec, execChoRda, execChoSof, execChoRdal] at h
    split at h <;> cases h
  | _ => cases h

/-- Settles O43: the errors by the split over the instructions, and no arm answers a refusal. -/
theorem onlyChorusFails : Obligations.OnlyChorusFails := fun i s =>
  ⟨fun _ => exec_fault_chorus, exec_ne_refused i s⟩

end Sys2Proof.Machine
end

section
/-! The host's turn (R470, R476): the inputs of a frame in the register file, and a load of an image of whole words. -/

namespace Sys2Proof.Machine

/-! A frame (R39, R476). -/

theorem reg_setReg (s : State) (a b : RegAddr) (v : Word) :
    (s.setReg a v).reg b = if b = a then v else s.reg b := by
  split
  next h => rw [h, reg_setReg_same]
  next h => rw [reg_setReg_ne s a b v h]

/-- The register file after the host's direct writes: the input slots, and every other slot as before (R39). -/
theorem writeInputs_reg (f : InputFrame) (s : State) (a : RegAddr) :
    (writeInputs f s).reg a =
      if a = 0x12#6 then f.pot2 else if a = 0x11#6 then f.pot1 else if a = 0x10#6 then f.pot0
      else if a = 0x15#6 then f.adcr else if a = 0x14#6 then f.adcl else s.reg a := by
  simp only [writeInputs, reg_setReg]
  rfl

/-- After the inputs, neither the oscillators' advance nor the start of the sample writes a slot. -/
theorem beginFrame_reg (f : InputFrame) (s : State) (a : RegAddr) :
    (beginFrame f s).reg a = (writeInputs f s).reg a := rfl

/-- Settles O49: the frame apart from the register file is read off `beginFrame`, the slots off `writeInputs`. -/
theorem hostFrameStep : Obligations.HostFrameStep := by
  intro s f rest hphase hhost
  refine ⟨_, (step_betweenSamples hphase).trans (hostStep_frame hhost), rfl, ?_⟩
  simp only [beginFrame_reg, writeInputs_reg]
  refine ⟨rfl, rfl, rfl, rfl, rfl, fun a hpot0 hpot1 hpot2 hadcl hadcr => ?_⟩
  rw [if_neg hpot2, if_neg hpot1, if_neg hpot0, if_neg hadcr, if_neg hadcl]
  rfl

/-! A load (R470). -/

/-- An image of whole words decodes as its words. -/
theorem decodeImage_flatMap_bytesOfWord (ws : List Word) : decodeImage (ws.flatMap bytesOfWord) = decodeProgram ws := by
  rw [decodeImage, wordsOfImage_flatMap_bytesOfWord]

section
variable {image : List Byte} (cfg : Config) (host : List HostCommand)

theorem loadProgram_ok {program : List Word} (h : decodeImage image = .ok program) :
    loadProgram image cfg host = .next (loadedState cfg program host) := by simp only [loadProgram, h]

theorem loadProgram_unknownOpcode {k : Nat} {w : Word} (h : decodeImage image = .error (.unknownOpcode k w)) :
    loadProgram image cfg host = .fault (.unknownOpcode k w) := by simp only [loadProgram, h, raise]

theorem loadProgram_tooLong {n : Nat} (h : decodeImage image = .error (.programTooLong n)) :
    loadProgram image cfg host = .fault (.programTooLong n) := by simp only [loadProgram, h, raise]

end

/-- Settles O50: the load's answer follows the decoding of the words. -/
theorem loadStep : Obligations.LoadStep := by
  intro s ws rest hphase hhost
  rw [step_betweenSamples hphase, hostStep_load hhost, ← decodeImage_flatMap_bytesOfWord]
  exact ⟨fun _ => loadProgram_ok s.cfg rest, fun _ _ => loadProgram_unknownOpcode s.cfg rest,
    fun _ => loadProgram_tooLong s.cfg rest⟩

end Sys2Proof.Machine
end

section
/-! The LFO evaluation of a CHO instruction (R400 to R405) on healthy oscillators: no check fires, so the evaluation
answers its formula, or the flag its selector refuses. -/

namespace Sys2Proof.Machine

open Sys2Proof.Claims

/-! A check that does not fire (R404), and one that is made under a flag alone. -/

section
variable {α : Type} {y : Real64}

theorem checkInvariant_bind (h : y.inUnit = true) (policy : LfoInvariantPolicy) (n : Nat)
    (g : Real64 × Nat → Except Fault α) : (checkInvariant policy n y >>= g) = g (y, n) := by
  rw [checkInvariant_of_inUnit policy n y h]
  rfl

theorem ite_checkInvariant_bind (h : y.inUnit = true) (policy : LfoInvariantPolicy) (n : Nat) (c : Bool) (v : Real64)
    (g : Real64 × Nat → Except Fault α) :
    (if c then checkInvariant policy n y >>= g else .ok (v, n) >>= g) = g (if c then y else v, n) := by
  cases c with
  | false => rfl
  | true => exact checkInvariant_bind h policy n g

end

/-! The oscillators of a healthy state (R200, R205, R212). -/

section
variable {s : State} (h : LfoHealthy s)
include h

theorem healthy_sine (k : SineSel) : (s.sine k).inRange ∧ (s.sine k).storedLive := ⟨h.1.1 k, h.2.1 k⟩

theorem healthy_ramp (k : RampSel) : (s.ramp k).inRange ∧ (s.ramp k).storedLive := ⟨h.1.2 k, h.2.2 k⟩

end

/-! The selected values (R401): REG chooses between equal values. -/

theorem sineValue_eq {o : SineOsc} (h : o.storedLive) (f : ChoFlags) :
    sineValue o f = (if f.cos then o.angle.cos else o.angle.sin).mul (sinAmpNorm o.range) := by
  obtain ⟨hsin, hcos⟩ := h
  rw [sineValue, hsin, hcos, ite_self, ite_self]
  split <;> rfl

theorem rampValue_eq {o : RampOsc} (h : o.storedLive) (f : ChoFlags) : rampValue o f = o.live := by
  have hstored : o.stored = o.live := h
  rw [rampValue, hstored, ite_self]

/-! The value of a sine selector after step 4 (R402). -/

theorem sineValue_inUnit {o : SineOsc} (hrange : o.inRange) (h : o.storedLive) (f : ChoFlags) :
    (sineValue o f).inUnit = true := by
  obtain ⟨-, hamp, -⟩ := hrange
  rw [sineValue_eq h]
  refine Real64.mul_inUnit _ _ ?_ (sinAmpNorm_inUnit _ hamp)
  split
  · exact Real64.cos_inUnit _
  · exact Real64.sin_inUnit _

theorem sineChoValue_eq {o : SineOsc} (h : o.storedLive) (f : ChoFlags) :
    sineChoValue f o = if f.compa then (sineValue o f).neg else sineValue o f := by
  rw [sineValue_eq h]
  rfl

theorem sineChoValue_inUnit {o : SineOsc} (hrange : o.inRange) (h : o.storedLive) (f : ChoFlags) :
    (sineChoValue f o).inUnit = true := by
  have hvalue := sineValue_inUnit hrange h f
  rw [sineChoValue_eq h]
  split
  · exact neg_inUnit _ hvalue
  · exact hvalue

/-! The value of a ramp selector after step 4 (R402). -/

/-- The value of a ramp before COMPA: RPTR2 moves it by half of its range (R402). -/
def rampPointer (o : RampOsc) (f : ChoFlags) : Real64 := if f.rptr2 then rptr2Value o.live else o.live

theorem rampPointer_bounds {o : RampOsc} (h : o.inRange) (f : ChoFlags) :
    0 ≤ (rampPointer o f).units ∧ (rampPointer o f).units ≤ ((1 * 2 ^ 191 : Nat) : Int) := by
  obtain ⟨hlo, hhi⟩ := o.live_bounds h.1
  rw [rampPointer]
  split
  · exact rptr2Value_bounds _ hlo hhi
  · exact ⟨hlo, hhi⟩

theorem Real64.lt_iff (a b : Real64) : a.lt b = true ↔ a.units < b.units := decide_eq_true_iff

theorem rptr2Value_eq (v : Real64) :
    rptr2Value v =
      if (v.add (Real64.ofRatio 1 4)).units < (Real64.ofRatio 1 2).units then v.add (Real64.ofRatio 1 4)
      else (v.add (Real64.ofRatio 1 4)).sub (Real64.ofRatio 1 2) := by
  simp only [rptr2Value, Real64.lt_iff]

theorem rampChoValue_eq (o : RampOsc) (f : ChoFlags) :
    rampChoValue f o.counter o.range.toNat =
      if f.compa then rampCompa o.range (rampPointer o f) else rampPointer o f := by
  rw [rampPointer, rptr2Value_eq, RampOsc.live_eq]
  rfl

theorem rampChoValue_inUnit {o : RampOsc} (h : o.inRange) (f : ChoFlags) :
    (rampChoValue f o.counter o.range.toNat).inUnit = true := by
  obtain ⟨hlo, hhi⟩ := rampPointer_bounds h f
  rw [rampChoValue_eq]
  split
  · exact rampCompa_inUnit _ _ hlo hhi
  · exact inUnit_of_half _ hlo hhi

theorem Real64.zero_max (x : Real64) : Real64.zero.max x = if x.units < 0 then Real64.zero else x := by
  rcases lt_trichotomy x.units 0 with hneg | hzero | hpos
  · rw [Real64.max, if_neg (mt (Real64.lt_iff Real64.zero x).mp hneg.not_gt), if_pos hneg]
  · obtain rfl : x = Real64.zero := congrArg Real64.mk hzero
    rfl
  · rw [Real64.max, if_pos ((Real64.lt_iff Real64.zero x).mpr hpos), if_neg hpos.not_gt]

/-! The evaluation of each selector (R405). -/

section
variable {s : State} (h : LfoHealthy s) (f : ChoFlags)
include h

theorem choEval_ramp (k : RampSel) (hcos : f.cos = false) :
    choEval s (.ramp k) f = .ok (
      let v := rampChoValue f (s.ramp k).counter (s.ramp k).range.toNat
      if f.na then ⟨v, 0, compc f (xfade v), 0⟩
      else ⟨v, (v.mul (rampScale (s.ramp k).range)).floor,
        plainCoef s.cfg.choCoefMode (rampScale (s.ramp k).range) f v, 0⟩) := by
  obtain ⟨hrange, hstored⟩ := healthy_ramp h k
  obtain ⟨hlo, hhi⟩ := (s.ramp k).live_bounds hrange.1
  obtain ⟨hlo', hhi'⟩ := rptr2Value_bounds _ hlo hhi
  obtain ⟨hplo, hphi⟩ := rampPointer_bounds hrange f
  rw [choEval, choEvalRamp, hcos, rampValue_eq hstored, rampChoValue_eq]
  refine (checkInvariant_bind (inUnit_of_half _ hlo hhi) _ _ _).trans ?_
  refine (ite_checkInvariant_bind (inUnit_of_half _ hlo' hhi') _ _ _ _ _).trans ?_
  refine (ite_checkInvariant_bind (rampCompa_inUnit _ _ hplo hphi) _ _ _ _ _).trans ?_
  dsimp only
  split
  · exact checkInvariant_bind (xfade_inUnit _) _ _ _
  · rfl

theorem choEval_sine_rptr2 (k : SineSel) (hrptr2 : f.rptr2 = true) :
    choEval s (.sine k) f = .error (.incompatibleFlag .rptr2 (.sine k)) := by
  obtain ⟨hrange, hstored⟩ := healthy_sine h k
  rw [choEval, choEvalSine, hrptr2]
  exact checkInvariant_bind (sineValue_inUnit hrange hstored f) _ _ _

/-- Past the flag RPTR2, NA alone decides between an error and a result. -/
theorem choEval_sine_of_not_rptr2 (k : SineSel) (hrptr2 : f.rptr2 = false) :
    choEval s (.sine k) f =
      let v := sineChoValue f (s.sine k)
      if f.na then .error (.incompatibleFlag .na (.sine k))
      else .ok ⟨v, (v.mul sineScale).floor, plainCoef s.cfg.choCoefMode sineScale f v, 0⟩ := by
  obtain ⟨hrange, hstored⟩ := healthy_sine h k
  have hvalue := sineValue_inUnit hrange hstored f
  rw [choEval, choEvalSine, hrptr2, sineChoValue_eq hstored]
  refine (checkInvariant_bind hvalue _ _ _).trans ?_
  exact ite_checkInvariant_bind (neg_inUnit _ hvalue) _ _ _ _ _

end

theorem choEval_ramp_cos (s : State) (f : ChoFlags) (k : RampSel) (hcos : f.cos = true) :
    choEval s (.ramp k) f = .error (.incompatibleFlag .cos (.ramp k)) := by
  rw [choEval, choEvalRamp, hcos]
  rfl

/-- Settles O36: the evaluation in the statement's arithmetic. -/
theorem choRampValues : Obligations.ChoRampValues := by
  intro k f s hcos h
  rw [choEval_ramp h f k hcos]
  simp only [xfade, Real64.zero_max]
  cases s.cfg.choCoefMode <;> rfl

/-! The sine and the cosine at the eighth turns (R202; assumptions 2 and 4). -/

theorem sin_zero : Real64.sin ⟨0⟩ = ⟨0⟩ := by decide +kernel

theorem cos_zero : Real64.cos ⟨0⟩ = Real64.one := by decide +kernel

/-- At whole and half turns. -/
theorem trig_half_turns : ∀ k ≤ 8, k % 4 = 0 →
    |(eighthTurn k).sin.units| ≤ 2 ^ 142 ∧
    |(eighthTurn k).cos.units - (if k = 4 then -(realOne : Int) else realOne)| ≤ 2 ^ 142 := by decide +kernel

/-- At one and three quarters of a turn. -/
theorem trig_odd_quarter_turns : ∀ k ≤ 8, k % 4 = 2 →
    |(eighthTurn k).cos.units| ≤ 2 ^ 142 ∧
    |(eighthTurn k).sin.units - (if k = 6 then -(realOne : Int) else realOne)| ≤ 2 ^ 142 := by decide +kernel

theorem trig_odd_eighth_turns : ∀ k ≤ 8, k % 2 = 1 →
    (0 < (eighthTurn k).sin.units ↔ k < 4) ∧ (0 < (eighthTurn k).cos.units ↔ k < 2 ∨ 6 < k) ∧
    |2 * (eighthTurn k).sin.units ^ 2 - (realOne : Int) ^ 2| ≤ 2 ^ 336 ∧
    |2 * (eighthTurn k).cos.units ^ 2 - (realOne : Int) ^ 2| ≤ 2 ^ 336 := by decide +kernel

/-- Settles O37: the eighth turns are evaluated, and the evaluation of a selector is put in the statement's arithmetic. -/
theorem choSineValues : Obligations.ChoSineValues := by
  refine ⟨sin_zero, cos_zero, fun k hk => ?turns, fun k f s hrptr2 hna h => ?selector⟩
  case turns => exact ⟨trig_half_turns k hk, trig_odd_quarter_turns k hk, trig_odd_eighth_turns k hk⟩
  case selector =>
    rw [choEval_sine_of_not_rptr2 h f k hrptr2, hna]
    cases s.cfg.choCoefMode <;> rfl

end Sys2Proof.Machine
end

section
/-! The offset and the coefficient of an evaluation (R403, R404): their bounds, and the chorus instructions that use them
(R405, R410 to R412). -/

namespace Sys2Proof

open Sys2Proof.Machine Sys2Proof.Claims

/-! The delay offset (R403). -/

/-- A value times a whole scale, rounded and then floored, stays between whole bounds of the exact product. -/
theorem floor_mul_ofInt_bounds {v : Real64} {n lo hi : Int} (hlo53 : lo.natAbs ≤ 2 ^ 53) (hhi53 : hi.natAbs ≤ 2 ^ 53)
    (hlo : lo * realOne ≤ v.units * n) (hhi : v.units * n ≤ hi * realOne) :
    lo ≤ (v.mul (Real64.ofInt n)).floor ∧ (v.mul (Real64.ofInt n)).floor ≤ hi := by
  have hpos : (0 : Int) < realOne := Int.natCast_pos.mpr realOne_pos
  have hone : (realOne : Int) = 2 ^ realBits := Nat.cast_pow 2 realBits
  have hproduct : v.units * (Real64.ofInt n).units = realOne * (v.units * n) := by
    rw [Real64.ofInt]
    ring
  have hmin : lo * realOne ≤ (v.mul (Real64.ofInt n)).units := by
    rw [Real64.mul, hproduct, hone]
    exact le_roundQuot realOne_pos hlo53 (Int.mul_le_mul_of_nonneg_left (hone ▸ hlo) hpos.le)
  have hmax : (v.mul (Real64.ofInt n)).units ≤ hi * realOne := by
    rw [Real64.mul, hproduct, hone]
    exact roundQuot_le_of_le realOne_pos hhi53 (Int.mul_le_mul_of_nonneg_left (hone ▸ hhi) hpos.le)
  exact ⟨Int.le_ediv_of_mul_le hpos hmin, Int.ediv_le_of_le_mul hpos hmax⟩

theorem sine_offset_bounds {v : Real64} (h : v.inUnit = true) :
    -32767 ≤ (v.mul sineScale).floor ∧ (v.mul sineScale).floor ≤ 32767 := by
  obtain ⟨hlo, hhi⟩ := (Real64.inUnit_iff v).mp h
  exact floor_mul_ofInt_bounds (by decide) (by decide) (by omega) (by omega)

theorem ramp_offset_bounds {v : Real64} (amp : RampRange) (h0 : 0 ≤ v.units)
    (h1 : v.units ≤ ((1 * 2 ^ 191 : Nat) : Int)) :
    0 ≤ (v.mul (rampScale amp)).floor ∧ (v.mul (rampScale amp)).floor ≤ amp.toNat := by
  have hhalf : 2 * ((1 * 2 ^ 191 : Nat) : Int) = realOne := by decide +kernel
  have hamp : (amp.toNat : Int).natAbs ≤ 2 ^ 53 := by cases amp <;> decide
  refine floor_mul_ofInt_bounds (by decide) hamp ?lower ?upper
  case lower => nlinarith [Int.natCast_nonneg amp.toNat]
  case upper => nlinarith [Int.natCast_nonneg amp.toNat]

/-- Settles O38: a refused flag answers no result, and otherwise the value of step 4 bounds the offset. -/
theorem choOffsetBounds : Obligations.ChoOffsetBounds := by
  intro f s r h
  refine ⟨fun k hr => ?sine, fun k hcompa hr => ?ramp⟩
  case sine =>
    obtain ⟨hrange, hstored⟩ := healthy_sine h k
    cases hrptr2 : f.rptr2 with
    | true => rw [choEval_sine_rptr2 h f k hrptr2] at hr; cases hr
    | false =>
      rw [choEval_sine_of_not_rptr2 h f k hrptr2] at hr
      cases hna : f.na <;> rw [hna] at hr <;> cases hr
      exact sine_offset_bounds (sineChoValue_inUnit hrange hstored f)
  case ramp =>
    cases hcos : f.cos with
    | true => rw [choEval_ramp_cos s f k hcos] at hr; cases hr
    | false =>
      obtain ⟨hlo, hhi⟩ := rampPointer_bounds (healthy_ramp h k).1 f
      rw [choEval_ramp h f k hcos, rampChoValue_eq, hcompa] at hr
      cases hna : f.na <;> rw [hna] at hr <;> cases hr
      · exact ramp_offset_bounds _ hlo hhi
      · exact ⟨le_refl 0, Int.natCast_nonneg _⟩

/-! The coefficient (R404) and its S8.23 value (R168). -/

/-- A coefficient of absolute value at most 2.0. -/
def CoefInTwo (c : Real64) : Prop := -(2 * realOne : Int) ≤ c.units ∧ c.units ≤ 2 * realOne

/-- COMPC takes a value in [-1, 1] to one in [0, 2]. -/
theorem compc_inTwo (f : ChoFlags) {y : Real64} (h : y.inUnit = true) : CoefInTwo (compc f y) := by
  obtain ⟨hlo, hhi⟩ := (Real64.inUnit_iff y).mp h
  have hone : Real64.one.units = realOne := rfl
  have htwo : 2 * (realOne : Int) = 1 * 2 ^ 193 := by decide +kernel
  rw [compc]
  split
  · rw [CoefInTwo, htwo]
    have hnonneg : 0 ≤ (Real64.one.sub y).units := roundQuot_nonneg _ _ (by omega)
    have hle : (Real64.one.sub y).units ≤ 1 * 2 ^ 193 := roundQuot_le_of_le (by decide) (by decide) (by omega)
    exact ⟨by omega, hle⟩
  · exact ⟨by omega, by omega⟩

theorem addrFraction_inUnit (scale v : Real64) : (addrFraction scale v).inUnit = true := by
  have hpos : (0 : Int) < realOne := Int.natCast_pos.mpr realOne_pos
  rw [addrFraction]
  generalize v.mul scale = p
  have hlo := Int.emod_nonneg p.units hpos.ne'
  have hhi := Int.emod_lt_of_pos p.units hpos
  have hfraction : p.units - (Real64.ofInt p.floor).units = p.units % realOne := by
    rw [Int.emod_def]
    rfl
  rw [Real64.sub, hfraction]
  exact roundQuot_inUnit _ _ (by decide) (by omega) (by omega)

theorem plainCoef_inTwo (mode : ChoCoefMode) (scale : Real64) (f : ChoFlags) {v : Real64} (h : v.inUnit = true) :
    CoefInTwo (plainCoef mode scale f v) := by
  cases mode with
  | lfoValue => exact compc_inTwo f h
  | fraction => exact compc_inTwo f (addrFraction_inUnit scale v)

/-- A coefficient in [-2, 2] is converted without saturation (R168). -/
theorem realToRaw_of_inTwo {c : Real64} (h : CoefInTwo c) :
    realToRaw c = Int.tdiv (8388608 * c.units) realOne ∧ -16777216 ≤ realToRaw c ∧ realToRaw c ≤ 16777216 := by
  have hbound : (Int.tdiv (8388608 * c.units) realOne).natAbs ≤ 16777216 := by
    obtain ⟨hlo, hhi⟩ := h
    rw [Int.natAbs_tdiv]
    exact Nat.div_le_of_le_mul (by omega)
  have hraw : realToRaw c = Int.tdiv (8388608 * c.units) realOne := by
    have hscale : (2 : Int) ^ 23 = 8388608 := by decide
    rw [realToRaw, hscale]
    omega
  omega

theorem fromReal_val {c : Real64} (h : CoefInTwo c) :
    (fromReal c).val = Int.tdiv (8388608 * c.units) realOne := by
  obtain ⟨hraw, hlo, hhi⟩ := realToRaw_of_inTwo h
  rw [← hraw]
  exact toInt_ofInt_of_bounds (realToRaw c) (by omega) (by omega)

/-! The instructions on the flags their selector accepts (R410 to R412). -/

/-- An evaluation completes on the flags its selector accepts, with nothing clamped. -/
theorem choEval_of_compatible {n : LfoSel} {f : ChoFlags} {s : State} (hf : choCompatible n f = true)
    (h : LfoHealthy s) : ∃ r, choEval s n f = .ok r ∧ r.clamps = 0 ∧ CoefInTwo r.coef := by
  cases n with
  | sine k =>
    obtain ⟨hrptr2, hna⟩ : f.rptr2 = false ∧ f.na = false := by simpa [choCompatible] using hf
    obtain ⟨hrange, hstored⟩ := healthy_sine h k
    rw [choEval_sine_of_not_rptr2 h f k hrptr2, hna]
    exact ⟨_, rfl, rfl, plainCoef_inTwo _ _ f (sineChoValue_inUnit hrange hstored f)⟩
  | ramp k =>
    have hcos : f.cos = false := by simpa [choCompatible] using hf
    rw [choEval_ramp h f k hcos]
    refine ⟨_, rfl, ?_⟩
    split
    · exact ⟨rfl, compc_inTwo f (xfade_inUnit _)⟩
    · exact ⟨rfl, plainCoef_inTwo _ _ f (rampChoValue_inUnit (healthy_ramp h k).1 f)⟩

theorem countClamps_zero (s : State) : s.countClamps 0 = s := rfl

section
variable {n : LfoSel} {f : ChoFlags} {s : State} {r : ChoResult} (hr : choEval s n f = .ok r) (hclamps : r.clamps = 0)
  (hcoef : CoefInTwo r.coef)
include hr hclamps hcoef

theorem exec_choRda (a : DelayAddr) :
    exec (.choRda n f a) s =
      .next (readFold s (a.toNat + r.offset) (Int.tdiv (8388608 * r.coef.units) realOne)) := by
  simp only [exec, execChoRda, hr, hclamps, countClamps_zero, readAccumulate_eq_readFold, fromReal_val hcoef]

theorem exec_choSof (d : BitVec 16) :
    exec (.choSof n f d) s =
      .next (scaleFold s s.acc.raw.toInt (Int.tdiv (8388608 * r.coef.units) realOne) (d.toInt * 256)) := by
  have hscale := scaleOffset_eq_scaleFold s.acc (fromReal r.coef) (offsetS_15 d) s
  rw [fromReal_val hcoef, offsetS_15_val] at hscale
  simp only [exec, execChoSof, hr, hclamps, countClamps_zero]
  exact congrArg _ hscale

theorem exec_choRdal :
    exec (.choRdal n f) s =
      .next (captured s [Int.tdiv (8388608 * r.coef.units) realOne]
        (accOf s.cfg.clampEnabled (Int.tdiv (8388608 * r.coef.units) realOne))) := by
  simp only [exec, execChoRdal, hr, hclamps, countClamps_zero, fpSat, fromReal_val hcoef]
  rw [capture_finish_eq_captured, finish_as_acc]
  simp only [List.map, finish_ovf, outOfRange_eq_outside24]

end

/-- Settles O34: the evaluation completes, and the read is the delay family's. -/
theorem choRdaResult : Obligations.ChoRdaResult := by
  intro n f a s hf h
  obtain ⟨r, hr, hclamps, hcoef⟩ := choEval_of_compatible hf h
  exact ⟨r, hr, exec_choRda hr hclamps hcoef a⟩

/-- Settles O35: the evaluation completes, and CHO SOF is the scale/offset family's fold. -/
theorem choSofRdalResults : Obligations.ChoSofRdalResults := by
  intro n f d s hf h
  obtain ⟨r, hr, hclamps, hcoef⟩ := choEval_of_compatible hf h
  exact ⟨r, hr, exec_choSof hr hclamps hcoef d, exec_choRdal hr hclamps hcoef⟩

/-! The flags a selector refuses (R405). -/

/-- Each of the three instructions raises the error of its evaluation. -/
theorem exec_cho_of_error {n : LfoSel} {f : ChoFlags} {s : State} {e : Fault} (h : choEval s n f = .error e)
    (x : BitVec 16) :
    exec (.choRda n f x) s = .fault e ∧ exec (.choSof n f x) s = .fault e ∧ exec (.choRdal n f) s = .fault e := by
  simp only [exec, execChoRda, execChoSof, execChoRdal, h, raise, and_self]

/-- Settles O39: the error each evaluation ends in. -/
theorem incompatibleFlagsFail : Obligations.IncompatibleFlagsFail := by
  intro f x s
  refine ⟨fun k hcos => ?cos, fun k h hrptr2 => ?rptr2, fun k h hrptr2 hna => ?na⟩
  case cos => exact exec_cho_of_error (choEval_ramp_cos s f k hcos) x
  case rptr2 => exact exec_cho_of_error (choEval_sine_rptr2 h f k hrptr2) x
  case na =>
    have heval := choEval_sine_of_not_rptr2 h f k hrptr2
    rw [hna] at heval
    exact exec_cho_of_error heval x

end Sys2Proof
end
